-- ==== Sys2Proof/Word.lean ====
section
/-!
DEFINITION. The machine's plain words (spec/00_scope.md section 5, 10_state.md R11, R12, 20_memory.md R26).
-/

namespace Sys2Proof

/-- The instruction word a format view reads: 32 bits, bit 0 the least significant (R26). -/
abbrev Word := BitVec 32

/-- A byte of an instruction parcel, for a consumer that assembles a word (R27). -/
abbrev Byte := BitVec 8

/-- The operation selector port `sel` (R11). -/
abbrev Selector := BitVec 8

/-- The `off` and `wid` ports: unsigned, 0 to 127 (R11). -/
abbrev Pos := BitVec 7

/-- The `fcode` port (R12). -/
abbrev FCode := BitVec 2

end Sys2Proof
end

