-- ==== Sys2Proof/Syntax.lean ====
section
/-!
DEFINITION. The syntax: the 46 operations (spec/30_encoding.md R39, opcode_table.json), what each reads (R13, R39), the
request as a record of five numbers (R15, R35), and the assembly line with its one pseudo-operation (R53, R54).
-/

namespace Sys2Proof

/-- One constructor per row of the opcode table. The operands of an operation stand on the request ports, not in the
instruction (R35). -/
inductive Instr where
  -- group 0: the primitives
  | extract | set | extract32 | set32 | sext
  -- group 1: the R view
  | rOpcode | rRd | rFunct3 | rRs1 | rRs2 | rFunct7 | rFunction
  -- group 2: the I view
  | iOpcode | iRd | iFunct3 | iRs1 | iShup5 | iShup6 | iImm | iImmExt
  | iShamt5 | iShamt6 | iShkind5 | iShkind6 | iCsr | iZimm
  -- group 3: the S view
  | sOpcode | sFunct3 | sRs1 | sRs2 | sImm | sImmExt
  -- group 4: the B view
  | bOpcode | bFunct3 | bRs1 | bRs2 | bImm | bImmExt
  -- group 5: the U view
  | uOpcode | uRd | uImm | uImmExt
  -- group 6: the J view
  | jOpcode | jRd | jImm | jImmExt
deriving DecidableEq, Repr

/-- The group an operation belongs to: the primitives, or one of the six format views (R37). -/
inductive Group where
  | prim | r | i | s | b | u | j
deriving DecidableEq, Repr

/-- The group of each operation, as the table of R39 lists it. -/
def Instr.group : Instr → Group
  | .extract | .set | .extract32 | .set32 | .sext => .prim
  | .rOpcode | .rRd | .rFunct3 | .rRs1 | .rRs2 | .rFunct7 | .rFunction => .r
  | .iOpcode | .iRd | .iFunct3 | .iRs1 | .iShup5 | .iShup6 | .iImm | .iImmExt
  | .iShamt5 | .iShamt6 | .iShkind5 | .iShkind6 | .iCsr | .iZimm => .i
  | .sOpcode | .sFunct3 | .sRs1 | .sRs2 | .sImm | .sImmExt => .s
  | .bOpcode | .bFunct3 | .bRs1 | .bRs2 | .bImm | .bImmExt => .b
  | .uOpcode | .uRd | .uImm | .uImmExt => .u
  | .jOpcode | .jRd | .jImm | .jImmExt => .j

/-- What an operation reads besides `sel` (R13, the "reads" column of R39). -/
inductive Operand where
  /-- the whole of port `a` -/
  | a
  /-- the low 32 bits of port `a`, as the container of EXTRACT32 and SET32 -/
  | a32
  /-- the low 32 bits of port `a`, as the instruction word of a view (R36) -/
  | w
  /-- port `b` -/
  | b
  /-- port `off` -/
  | off
  /-- port `wid` -/
  | wid
deriving DecidableEq, Repr

/-- The operands of each operation, in the order it reads them (R13, R39, R53). -/
def Instr.operands : Instr → List Operand
  | .extract => [.a, .off, .wid]
  | .set => [.a, .b, .off, .wid]
  | .extract32 => [.a32, .off, .wid]
  | .set32 => [.a32, .b, .off, .wid]
  | .sext => [.a, .wid]
  | .rOpcode | .rRd | .rFunct3 | .rRs1 | .rRs2 | .rFunct7 | .rFunction
  | .iOpcode | .iRd | .iFunct3 | .iRs1 | .iShup5 | .iShup6 | .iImm | .iImmExt
  | .iShamt5 | .iShamt6 | .iShkind5 | .iShkind6 | .iCsr | .iZimm
  | .sOpcode | .sFunct3 | .sRs1 | .sRs2 | .sImm | .sImmExt
  | .bOpcode | .bFunct3 | .bRs1 | .bRs2 | .bImm | .bImmExt
  | .uOpcode | .uRd | .uImm | .uImmExt
  | .jOpcode | .jRd | .jImm | .jImmExt => [.w]

/-- A request as a consumer writes it: "a record of five numbers" (R15, R35). Whether the numbers fit the ports of a
build is `Request.WellFormed`. -/
structure Request where
  sel : Nat
  a : Nat
  b : Nat
  off : Nat
  wid : Nat
deriving DecidableEq, Repr

/-- A mnemonic of the assembly syntax: an operation, or the pseudo-operation ZEXT (R53, R54). -/
inductive Mnemonic where
  | op (i : Instr)
  | zext
deriving DecidableEq, Repr

/-- The operands a mnemonic takes, in written order; ZEXT takes `a, n`, and `n` goes to the `wid` port (R54). -/
def Mnemonic.operands : Mnemonic → List Operand
  | .op i => i.operands
  | .zext => [.a, .wid]

/-- One line of assembly: "`MNEMONIC operands`" (R53). -/
structure AsmLine where
  mnemonic : Mnemonic
  args : List Nat
deriving DecidableEq, Repr

end Sys2Proof
end

