-- ==== Sys2Proof/Decode.lean ====
section
/-!
DEFINITION. The request encoding (spec/30_encoding.md section 1): the decoder of a selector from its group and accessor
codes (R37, R38), the encoder from the table of legal selectors (R39), the table words of the host, and the assembler of
a written line (R53, R54).
-/

namespace Sys2Proof

/-- Why a selector is no operation: it is one of the 210 reserved values (R40). -/
inductive DecodeError where
  | reservedSelector (sel : Selector)
deriving DecidableEq, Repr

/-- The group code `grp = sel[7:4]` (R37). -/
def groupCode (sel : Selector) : Nat := (sel.extractLsb 7 4).toNat

/-- The accessor code `acc = sel[3:0]` (R37). -/
def accessorCode (sel : Selector) : Nat := (sel.extractLsb 3 0).toNat

/-- Group 0: the primitives (R37, R39). -/
def decodePrim : Nat → Option Instr
  | 0 => some .extract
  | 1 => some .set
  | 2 => some .extract32
  | 3 => some .set32
  | 4 => some .sext
  | _ => none

/-- Group 1: the R view (R38). -/
def decodeR : Nat → Option Instr
  | 0 => some .rOpcode
  | 1 => some .rRd
  | 2 => some .rFunct3
  | 3 => some .rRs1
  | 4 => some .rRs2
  | 5 => some .rFunct7
  | 6 => some .rFunction
  | _ => none

/-- Group 2: the I view, which has no rs2 and no funct7 and gives the codes 6, 7 and 10 to 15 to its own fields
(R38). -/
def decodeI : Nat → Option Instr
  | 0 => some .iOpcode
  | 1 => some .iRd
  | 2 => some .iFunct3
  | 3 => some .iRs1
  | 6 => some .iShup5
  | 7 => some .iShup6
  | 8 => some .iImm
  | 9 => some .iImmExt
  | 10 => some .iShamt5
  | 11 => some .iShamt6
  | 12 => some .iShkind5
  | 13 => some .iShkind6
  | 14 => some .iCsr
  | 15 => some .iZimm
  | _ => none

/-- Group 3: the S view, which has no rd (R38). -/
def decodeS : Nat → Option Instr
  | 0 => some .sOpcode
  | 2 => some .sFunct3
  | 3 => some .sRs1
  | 4 => some .sRs2
  | 8 => some .sImm
  | 9 => some .sImmExt
  | _ => none

/-- Group 4: the B view, which has no rd (R38). -/
def decodeB : Nat → Option Instr
  | 0 => some .bOpcode
  | 2 => some .bFunct3
  | 3 => some .bRs1
  | 4 => some .bRs2
  | 8 => some .bImm
  | 9 => some .bImmExt
  | _ => none

/-- Group 5: the U view (R38). -/
def decodeU : Nat → Option Instr
  | 0 => some .uOpcode
  | 1 => some .uRd
  | 8 => some .uImm
  | 9 => some .uImmExt
  | _ => none

/-- Group 6: the J view (R38). -/
def decodeJ : Nat → Option Instr
  | 0 => some .jOpcode
  | 1 => some .jRd
  | 8 => some .jImm
  | 9 => some .jImmExt
  | _ => none

/-- The operation a group code and an accessor code name; groups 7 to 15 are reserved (R37). -/
def decodeCodes (grp acc : Nat) : Option Instr :=
  match grp with
  | 0 => decodePrim acc
  | 1 => decodeR acc
  | 2 => decodeI acc
  | 3 => decodeS acc
  | 4 => decodeB acc
  | 5 => decodeU acc
  | 6 => decodeJ acc
  | _ => none

/-- The operation a selector names, or the selector rejected by name (R37 to R40). -/
def decode (sel : Selector) : Except DecodeError Instr :=
  match decodeCodes (groupCode sel) (accessorCode sel) with
  | some i => .ok i
  | none => .error (.reservedSelector sel)

/-- The selector of each operation, from the table of R39. -/
def encode : Instr → Selector
  | .extract => 0x00#8
  | .set => 0x01#8
  | .extract32 => 0x02#8
  | .set32 => 0x03#8
  | .sext => 0x04#8
  | .rOpcode => 0x10#8
  | .rRd => 0x11#8
  | .rFunct3 => 0x12#8
  | .rRs1 => 0x13#8
  | .rRs2 => 0x14#8
  | .rFunct7 => 0x15#8
  | .rFunction => 0x16#8
  | .iOpcode => 0x20#8
  | .iRd => 0x21#8
  | .iFunct3 => 0x22#8
  | .iRs1 => 0x23#8
  | .iShup5 => 0x26#8
  | .iShup6 => 0x27#8
  | .iImm => 0x28#8
  | .iImmExt => 0x29#8
  | .iShamt5 => 0x2A#8
  | .iShamt6 => 0x2B#8
  | .iShkind5 => 0x2C#8
  | .iShkind6 => 0x2D#8
  | .iCsr => 0x2E#8
  | .iZimm => 0x2F#8
  | .sOpcode => 0x30#8
  | .sFunct3 => 0x32#8
  | .sRs1 => 0x33#8
  | .sRs2 => 0x34#8
  | .sImm => 0x38#8
  | .sImmExt => 0x39#8
  | .bOpcode => 0x40#8
  | .bFunct3 => 0x42#8
  | .bRs1 => 0x43#8
  | .bRs2 => 0x44#8
  | .bImm => 0x48#8
  | .bImmExt => 0x49#8
  | .uOpcode => 0x50#8
  | .uRd => 0x51#8
  | .uImm => 0x58#8
  | .uImmExt => 0x59#8
  | .jOpcode => 0x60#8
  | .jRd => 0x61#8
  | .jImm => 0x68#8
  | .jImmExt => 0x69#8

/-- The selector in an opcode-table word: bit 0 of the word is `sel[0]`, and the table gives a request `nbits = 8`
bits; bits above `nbits` count as zero (log entry 11). -/
def selOfTableWord (nbits w : Nat) : Selector := BitVec.ofNat 8 (w % 2 ^ nbits)

/-- The operation the decoder reads from an opcode-table word. -/
def decodeTableWord (nbits w : Nat) : Option Instr :=
  match decode (selOfTableWord nbits w) with
  | .ok i => some i
  | .error _ => none

/-- The selector a mnemonic stands for: "`ZEXT a, n` expands to `EXTRACT a, 0, n`" (R54). -/
def Mnemonic.sel : Mnemonic → Nat
  | .op i => (encode i).toNat
  | .zext => (encode .extract).toNat

/-- Drives one written operand onto its port (R53). -/
def Request.drivePort (r : Request) : Operand → Nat → Request
  | .a, v | .a32, v | .w, v => { r with a := v }
  | .b, v => { r with b := v }
  | .off, v => { r with off := v }
  | .wid, v => { r with wid := v }

/-- Drives written operands, in order, onto the ports they name. -/
def Request.driveAll (r : Request) : List Operand → List Nat → Request
  | o :: os, v :: vs => (r.drivePort o v).driveAll os vs
  | _, _ => r

/-- The request an assembly line stands for (R53, R54). A port no written operand names carries 0; for ZEXT the `off`
port is 0 by R54, elsewhere it is a port the operation does not read (R13; DESIGN CHOICE, log entry 10). -/
def AsmLine.assemble (l : AsmLine) : Request :=
  Request.driveAll { sel := l.mnemonic.sel, a := 0, b := 0, off := 0, wid := 0 } l.mnemonic.operands l.args

/-- The mnemonic of each operation as the table of R39 spells it (R53). -/
def Instr.name : Instr → String
  | .extract => "EXTRACT"
  | .set => "SET"
  | .extract32 => "EXTRACT32"
  | .set32 => "SET32"
  | .sext => "SEXT"
  | .rOpcode => "R.OPCODE"
  | .rRd => "R.RD"
  | .rFunct3 => "R.FUNCT3"
  | .rRs1 => "R.RS1"
  | .rRs2 => "R.RS2"
  | .rFunct7 => "R.FUNCT7"
  | .rFunction => "R.FUNCTION"
  | .iOpcode => "I.OPCODE"
  | .iRd => "I.RD"
  | .iFunct3 => "I.FUNCT3"
  | .iRs1 => "I.RS1"
  | .iShup5 => "I.SHUP5"
  | .iShup6 => "I.SHUP6"
  | .iImm => "I.IMM"
  | .iImmExt => "I.IMM_EXT"
  | .iShamt5 => "I.SHAMT5"
  | .iShamt6 => "I.SHAMT6"
  | .iShkind5 => "I.SHKIND5"
  | .iShkind6 => "I.SHKIND6"
  | .iCsr => "I.CSR"
  | .iZimm => "I.ZIMM"
  | .sOpcode => "S.OPCODE"
  | .sFunct3 => "S.FUNCT3"
  | .sRs1 => "S.RS1"
  | .sRs2 => "S.RS2"
  | .sImm => "S.IMM"
  | .sImmExt => "S.IMM_EXT"
  | .bOpcode => "B.OPCODE"
  | .bFunct3 => "B.FUNCT3"
  | .bRs1 => "B.RS1"
  | .bRs2 => "B.RS2"
  | .bImm => "B.IMM"
  | .bImmExt => "B.IMM_EXT"
  | .uOpcode => "U.OPCODE"
  | .uRd => "U.RD"
  | .uImm => "U.IMM"
  | .uImmExt => "U.IMM_EXT"
  | .jOpcode => "J.OPCODE"
  | .jRd => "J.RD"
  | .jImm => "J.IMM"
  | .jImmExt => "J.IMM_EXT"

/-- The text of a line: the mnemonic, then the operands in decimal, which R53 allows beside hexadecimal. -/
def AsmLine.text (l : AsmLine) : String :=
  let name := match l.mnemonic with
    | .op i => i.name
    | .zext => "ZEXT"
  name ++ " " ++ ", ".intercalate (l.args.map toString)

end Sys2Proof
end

