-- ==== Sys2Proof/Config.lean ====
section
/-!
DEFINITION. What is fixed when an instance is built (spec/00_scope.md R5 to R7, 70_reset_and_hazards.md R171), and the
one value the spec leaves unspecified (60_exceptions.md R152).
-/

namespace Sys2Proof

/-- The native register width `XLEN`: "either 32 or 64, fixed when BFX is built" (R5, OPEN by D4). -/
inductive Xlen where
  | x32
  | x64
deriving DecidableEq, Repr

/-- `XLEN` as a number of bits. -/
abbrev Xlen.width : Xlen → Nat
  | .x32 => 32
  | .x64 => 64

/-- The values of `BF_SET_OVERSIZE` (R7). -/
inductive SetOversize where
  /-- Extra bits of the field value are dropped (the default). -/
  | mask
  /-- Extra bits of the field value are refused with `OVERSIZE`. -/
  | fault
deriving DecidableEq, Repr

/-- The three build parameters; "No other parameter exists" (00_scope.md section 4). `shiftTagStrict` and `setOversize`
carry the spec's defaults (R6, R7); `xlen` has none. -/
structure BuildParams where
  /-- `XLEN`. -/
  xlen : Xlen
  /-- `SHIFT_TAG_STRICT`. -/
  shiftTagStrict : Bool := true
  /-- `BF_SET_OVERSIZE`. -/
  setOversize : SetOversize := .mask
deriving DecidableEq, Repr

/-- The width of the `a`, `b` and `y` ports (R5, R11, R12). -/
abbrev BuildParams.width (p : BuildParams) : Nat := p.xlen.width

/-- The build `State.reset` stands for. DESIGN CHOICE (log entry 1): the spec fixes no `XLEN`; the other two
parameters are the spec's defaults. -/
def Config.resetBuild : BuildParams := { xlen := .x64 }

/-- The value on `y` in a faulted response: "unspecified ... a free draw of any `XLEN`-bit value" (R152). It has no
body, so no proof can rest on it; the `n`-th draw of a run is `unspecifiedY n`, cut to `XLEN` bits (log entry 5). -/
opaque Config.unspecifiedY : Nat → BitVec 64

end Sys2Proof
end

