-- ==== Sys2Proof/Machine/State.lean ====
section
/-!
DEFINITION. The state of a model of BFX: "the build parameters ... and ... the values on its ports for one request"
(spec/10_state.md, introduction and section 4), the fault kinds (60_exceptions.md R150), the reasons a run or a step can
stop, and the state at power-up (70_reset_and_hazards.md R170, R171).
-/

namespace Sys2Proof.Machine

/-- The three BFX fault kinds (R150). A fault of these is a response, not a stop of the machine (log entry 8). -/
inductive FaultKind where
  /-- `SEL_RESERVED`: the selector is one of the 210 reserved values. -/
  | selReserved
  /-- `RANGE`: a bitfield position or a SEXT source width is out of range. -/
  | range
  /-- `OVERSIZE`: a SET or SET32 field value has bits at or above `wid`, and `BF_SET_OVERSIZE = fault`. -/
  | oversize
deriving DecidableEq, Repr

/-- The build parameters (R5 to R7), the request port (R11), the response port (R12), and the model's own counter of
free draws. Nothing else exists (R16 to R21, R25). -/
structure State where
  /-- `XLEN`, `SHIFT_TAG_STRICT`, `BF_SET_OVERSIZE`: fixed for the life of the instance (R14, R171). -/
  params : BuildParams
  /-- Input port: the operation selector. -/
  sel : Selector
  /-- Input port: container, value or instruction word. -/
  a : BitVec params.width
  /-- Input port: the new field value of SET and SET32. -/
  b : BitVec params.width
  /-- Input port: bit offset. -/
  off : Pos
  /-- Input port: field width, or source width of SEXT. -/
  wid : Pos
  /-- Output port: the result, meaningful only when `fault = 0` (R12). -/
  y : BitVec params.width
  /-- Output port: the request is refused. -/
  fault : Bool
  /-- Output port: the fault kind, 0 when there is none. -/
  fcode : FCode
  /-- The model's own field: how many unspecified values of `y` have been drawn (R152; log entry 5). -/
  draws : Nat
deriving DecidableEq, Repr

/-- Why a run stops. No step of BFX stops: a refused request is answered with a fault response. -/
inductive Fault where
  /-- Raised by the consumer's run (`consumerRun`), never by a step: a faulted response reached the consumer, which
  "records it as a fault of that run" (R155, D25). Safe: the run claims nothing past the fault. -/
  | reachedConsumer (fcode : FCode)
deriving DecidableEq, Repr

/-- Why an instruction has no meaning. -/
inductive Refusal where
  /-- Raised by an arm of `exec` whose instruction has no meaning yet; no arm of this model is one. Safe. -/
  | notModelled (mnemonic : String)
deriving DecidableEq, Repr

/-- An instance of the build `p` straight after power-up. BFX has nothing to reset (R170); the values on the ports
before the first request are DESIGN CHOICES (log entries 3, 4 and 5). -/
def State.powerUp (p : BuildParams) : State where
  params := p
  sel := 0
  a := 0
  b := 0
  off := 0
  wid := 0
  y := 0
  fault := false
  fcode := 0
  draws := 0

/-- The power-up state of one build (log entry 1). -/
def State.reset : State := State.powerUp Config.resetBuild

end Sys2Proof.Machine
end

