-- ==== Sys2Proof/Machine/Flags.lean ====
section
/-!
DEFINITION. BFX has no flags or condition codes (spec/10_state.md R18); what a response carries beside its result is the
fault indication. This file holds the code of each fault kind (60_exceptions.md R151), the checks that raise them
(40_bitfield.md R64, R65; 41_sign_extension.md R71), and the shift-kind classes (43_format_I.md R100, R101).
-/

namespace Sys2Proof.Machine

/-- `fcode` of each fault kind; `0b00` is NONE (R151). -/
def faultCode : FaultKind → FCode
  | .selReserved => 0b01#2
  | .range => 0b10#2
  | .oversize => 0b11#2

/-- `bf_ok(W, off, wid)`, the sum in exact integers (R64). -/
def bfOk (W : Nat) (off wid : Pos) : Bool :=
  decide (1 ≤ wid.toNat) && decide (off.toNat + wid.toNat ≤ W)

/-- The source width of SEXT is legal: `1 <= n <= XLEN` (R71). -/
def sextOk (W : Nat) (wid : Pos) : Bool :=
  decide (1 ≤ wid.toNat) && decide (wid.toNat ≤ W)

/-- `oversize(b, wid)`, on the whole `XLEN`-bit `b` (R65). -/
def oversize {W : Nat} (b : BitVec W) (wid : Pos) : Bool :=
  decide (wid.toNat < W) && !(b >>> wid.toNat == 0#W)

/-- SET and SET32 refuse this field value: the oversize check counts only when `BF_SET_OVERSIZE = fault` (R65). -/
def refusesOversize {W : Nat} (p : BuildParams) (b : BitVec W) (wid : Pos) : Bool :=
  oversize b wid && p.setOversize == .fault

/-- The three classes of the upper bits of a shift immediate (R100). -/
inductive ShiftKind where
  | logical
  | arithmetic
  | invalid
deriving DecidableEq, Repr

/-- The number of a class on `y`: 0 LOGICAL, 1 ARITHMETIC, 2 INVALID (R100, D11). -/
def shiftKindCode : ShiftKind → Nat
  | .logical => 0
  | .arithmetic => 1
  | .invalid => 2

/-- The class of the upper bits `up`: `tagPattern` is the tag bit alone, `tag` is `w[30]` (R100, R101). -/
def shiftKind {n : Nat} (strict : Bool) (up tagPattern : BitVec n) (tag : Bool) : ShiftKind :=
  if up = 0#n then .logical
  else if strict then (if up = tagPattern then .arithmetic else .invalid)
  else (if tag then .arithmetic else .invalid)

end Sys2Proof.Machine
end

