-- ==== Sys2Proof/Machine/Operands.lean ====
section
/-!
DEFINITION. The operand forms: the instruction word and the 32-bit container on port `a` (spec/30_encoding.md R36,
40_bitfield.md R62), and the fields and reassembled immediates of a word (30_encoding.md R41 to R48).
-/

namespace Sys2Proof.Machine

/-- `w = a[31:0]`, the word a format view reads (R26, R36). -/
def State.word (s : State) : Word := s.a.setWidth 32

/-- `c = a[31:0]`, the container of EXTRACT32 and SET32 (R62, R63). -/
def State.container32 (s : State) : BitVec 32 := s.a.setWidth 32

/-- opcode, `w[6:0]` in every format (R41). -/
def opcodeField (w : Word) : BitVec 7 := w.extractLsb 6 0

/-- rd, `w[11:7]` (R42, R43, R46, R47). -/
def rdField (w : Word) : BitVec 5 := w.extractLsb 11 7

/-- funct3, `w[14:12]` (R42 to R45). -/
def funct3Field (w : Word) : BitVec 3 := w.extractLsb 14 12

/-- rs1, `w[19:15]` (R42 to R45). -/
def rs1Field (w : Word) : BitVec 5 := w.extractLsb 19 15

/-- rs2, `w[24:20]` (R42, R44, R45). -/
def rs2Field (w : Word) : BitVec 5 := w.extractLsb 24 20

/-- funct7, `w[31:25]` (R42). -/
def funct7Field (w : Word) : BitVec 7 := w.extractLsb 31 25

/-- The combined function key, `funct3 | (funct7 << 3)` (R86). -/
def functionKey (w : Word) : BitVec 10 := funct7Field w ++ funct3Field w

/-- The I immediate, `w[31:20]` (R43). -/
def immI (w : Word) : BitVec 12 := w.extractLsb 31 20

/-- The S immediate: `imm[11:5] = w[31:25]`, `imm[4:0] = w[11:7]` (R44). -/
def immS (w : Word) : BitVec 12 := w.extractLsb 31 25 ++ w.extractLsb 11 7

/-- The B immediate: `imm[12] = w[31]`, `imm[11] = w[7]`, `imm[10:5] = w[30:25]`, `imm[4:1] = w[11:8]`, `imm[0] = 0`
(R45). -/
def immB (w : Word) : BitVec 13 :=
  w.extractLsb 31 31 ++ w.extractLsb 7 7 ++ w.extractLsb 30 25 ++ w.extractLsb 11 8 ++ 0#1

/-- The U immediate: `imm[31:12] = w[31:12]`, `imm[11:0] = 0` (R46). -/
def immU (w : Word) : BitVec 32 := w.extractLsb 31 12 ++ 0#12

/-- The J immediate: `imm[20] = w[31]`, `imm[19:12] = w[19:12]`, `imm[11] = w[20]`, `imm[10:1] = w[30:21]`,
`imm[0] = 0` (R47). -/
def immJ (w : Word) : BitVec 21 :=
  w.extractLsb 31 31 ++ w.extractLsb 19 12 ++ w.extractLsb 20 20 ++ w.extractLsb 30 21 ++ 0#1

/-- The 5-bit shift amount, `imm[4:0] = w[24:20]` (R96). -/
def shamt5Field (w : Word) : BitVec 5 := w.extractLsb 24 20

/-- The 6-bit shift amount, `imm[5:0] = w[25:20]` (R97). -/
def shamt6Field (w : Word) : BitVec 6 := w.extractLsb 25 20

/-- The bits above a 5-bit shift amount, `imm[11:5] = w[31:25]` (R98). -/
def shup5Field (w : Word) : BitVec 7 := w.extractLsb 31 25

/-- The bits above a 6-bit shift amount, `imm[11:6] = w[31:26]` (R99). -/
def shup6Field (w : Word) : BitVec 6 := w.extractLsb 31 26

/-- The arithmetic tag bit, `imm[10] = w[30]` (43_format_I.md section 3). -/
def shiftTag (w : Word) : Bool := w.getLsbD 30

end Sys2Proof.Machine
end

