-- ==== Sys2Proof/Machine/Ops.lean ====
section
/-!
DEFINITION. The shared operations: the bit helpers of the spec's notation (spec/00_scope.md section 5), driving a result,
and raising a fault, which is the only exception BFX takes (60_exceptions.md R150 to R154). There is no return from a
fault, because nothing is kept (R154, R158).
-/

namespace Sys2Proof.Machine

/-- What a meaning answers. -/
abbrev Result := Host.Outcome State Fault Refusal

/-- `lowmask(n)` at width `W`: `2^n - 1` (00_scope.md section 5). -/
def lowmask (W n : Nat) : BitVec W := BitVec.ofNat W (2 ^ n - 1)

/-- `zext_W(v)` (00_scope.md section 5). -/
def zext (W : Nat) {n : Nat} (v : BitVec n) : BitVec W := v.setWidth W

/-- `sext_W(v)` (00_scope.md section 5). -/
def sext (W : Nat) {n : Nat} (v : BitVec n) : BitVec W := v.signExtend W

/-- `v[off+wid-1:off]`, `wid` bits wide (R60, R62). -/
def fieldOf {W : Nat} (v : BitVec W) (off wid : Pos) : BitVec wid.toNat := v.extractLsb' off.toNat wid.toNat

/-- `(c & ~m) | (f << off)` with `m = lowmask(wid) << off`, all at the container's width `W`; `f` is the field value
already cut to `wid` bits (R61, R63). -/
def insertField {W : Nat} (c f : BitVec W) (off wid : Pos) : BitVec W :=
  let m := lowmask W wid.toNat <<< off.toNat
  (c &&& ~~~m) ||| (f <<< off.toNat)

/-- `y <- v`: the response carries `v`, `fault = 0` and `fcode = 0` (R12, R151). -/
def State.answer (s : State) (v : BitVec s.params.width) : State :=
  { s with y := v, fault := false, fcode := 0 }

/-- The response of a refused request: `fault = 1`, the kind's `fcode`, and an unspecified `y`, a fresh free draw (R151,
R152). -/
def State.refuse (s : State) (k : FaultKind) : State :=
  { s with
    y := (Config.unspecifiedY s.draws).setWidth s.params.width
    fault := true
    fcode := faultCode k
    draws := s.draws + 1 }

/-- `y <- v` as the end of an operation (00_scope.md section 5). -/
def drive (s : State) (v : BitVec s.params.width) : Result := .next (s.answer v)

/-- `raise <Fault>()`: it "ends the operation" with the fault response, and the machine goes on (00_scope.md section 5,
R154; log entry 8). -/
def raise (s : State) (k : FaultKind) : Result := .next (s.refuse k)

/-- `if bad then raise <Fault>()`, then the rest of the operation. -/
def raiseIf (bad : Bool) (k : FaultKind) (s : State) (rest : Result) : Result :=
  if bad then raise s k else rest

end Sys2Proof.Machine
end

