-- ==== Sys2Proof/Machine/Bitfield.lean ====
section
/-!
DEFINITION. The bitfield operations (spec/40_bitfield.md R60 to R63).
-/

namespace Sys2Proof.Machine

/-- EXTRACT: a bit range of the `XLEN`-bit container, zero-extended (R60). -/
def execExtract (s : State) : Result :=
  raiseIf (!bfOk s.params.width s.off s.wid) .range s <|
  drive s (zext s.params.width (fieldOf s.a s.off s.wid))

/-- SET: the container with a bit range replaced (R61). -/
def execSet (s : State) : Result :=
  raiseIf (!bfOk s.params.width s.off s.wid) .range s <|
  raiseIf (refusesOversize s.params s.b s.wid) .oversize s <|
  drive s (insertField s.a (s.b &&& lowmask s.params.width s.wid.toNat) s.off s.wid)

/-- EXTRACT32: a bit range of the 32-bit container, zero-extended (R62). -/
def execExtract32 (s : State) : Result :=
  raiseIf (!bfOk 32 s.off s.wid) .range s <|
  drive s (zext s.params.width (fieldOf s.container32 s.off s.wid))

/-- SET32: the 32-bit container with a bit range replaced, zero-extended; the oversize check reads the whole `b`
(R63). -/
def execSet32 (s : State) : Result :=
  raiseIf (!bfOk 32 s.off s.wid) .range s <|
  raiseIf (refusesOversize s.params s.b s.wid) .oversize s <|
  drive s (zext s.params.width
    (insertField s.container32 ((s.b &&& lowmask s.params.width s.wid.toNat).setWidth 32) s.off s.wid))

end Sys2Proof.Machine
end

