-- ==== Sys2Proof/Machine/SignExtension.lean ====
section
/-!
DEFINITION. The sign-extension primitive (spec/41_sign_extension.md R70, R71).
-/

namespace Sys2Proof.Machine

/-- SEXT: `sext_XLEN(a[n-1:0])` with `n = wid`; bits of `a` at and above `n` are ignored (R70). -/
def execSext (s : State) : Result :=
  raiseIf (!sextOk s.params.width s.wid) .range s <|
  drive s (sext s.params.width (fieldOf s.a 0 s.wid))

end Sys2Proof.Machine
end

