-- ==== Sys2Proof/Machine/ViewB.lean ====
section
/-!
DEFINITION. The B-format view (spec/45_format_B.md R120 to R125). An accessor reads only the word `w = a[31:0]` and never faults
(30_encoding.md R36, R51).
-/

namespace Sys2Proof.Machine

/-- B.OPCODE: `w[6:0]`, zero-extended (R120). -/
def execBOpcode (s : State) : Result :=
  drive s (zext s.params.width (opcodeField s.word))

/-- B.FUNCT3: `w[14:12]`, zero-extended (R121). -/
def execBFunct3 (s : State) : Result :=
  drive s (zext s.params.width (funct3Field s.word))

/-- B.RS1: `w[19:15]`, zero-extended (R122). -/
def execBRs1 (s : State) : Result :=
  drive s (zext s.params.width (rs1Field s.word))

/-- B.RS2: `w[24:20]`, zero-extended (R123). -/
def execBRs2 (s : State) : Result :=
  drive s (zext s.params.width (rs2Field s.word))

/-- B.IMM: the 13-bit branch offset, zero-extended (R124). -/
def execBImm (s : State) : Result :=
  drive s (zext s.params.width (immB s.word))

/-- B.IMM_EXT: the branch offset, sign-extended (R125). -/
def execBImmExt (s : State) : Result :=
  drive s (sext s.params.width (immB s.word))

end Sys2Proof.Machine
end

