-- ==== Sys2Proof/Machine/ViewI.lean ====
section
/-!
DEFINITION. The I-format view (spec/43_format_I.md R90 to R103). An accessor reads only the word `w = a[31:0]` and never faults
(30_encoding.md R36, R51).
-/

namespace Sys2Proof.Machine

/-- I.OPCODE: `w[6:0]`, zero-extended (R90). -/
def execIOpcode (s : State) : Result :=
  drive s (zext s.params.width (opcodeField s.word))

/-- I.RD: `w[11:7]`, zero-extended (R91). -/
def execIRd (s : State) : Result :=
  drive s (zext s.params.width (rdField s.word))

/-- I.FUNCT3: `w[14:12]`, zero-extended (R92). -/
def execIFunct3 (s : State) : Result :=
  drive s (zext s.params.width (funct3Field s.word))

/-- I.RS1: `w[19:15]`, zero-extended (R93). -/
def execIRs1 (s : State) : Result :=
  drive s (zext s.params.width (rs1Field s.word))

/-- I.IMM: the immediate `w[31:20]`, zero-extended (R94). -/
def execIImm (s : State) : Result :=
  drive s (zext s.params.width (immI s.word))

/-- I.IMM_EXT: the immediate, sign-extended (R95). -/
def execIImmExt (s : State) : Result :=
  drive s (sext s.params.width (immI s.word))

/-- I.SHAMT5: `w[24:20]`, zero-extended (R96). -/
def execIShamt5 (s : State) : Result :=
  drive s (zext s.params.width (shamt5Field s.word))

/-- I.SHAMT6: `w[25:20]`, zero-extended (R97). -/
def execIShamt6 (s : State) : Result :=
  drive s (zext s.params.width (shamt6Field s.word))

/-- I.SHUP5: `w[31:25]`, zero-extended (R98). -/
def execIShup5 (s : State) : Result :=
  drive s (zext s.params.width (shup5Field s.word))

/-- I.SHUP6: `w[31:26]`, zero-extended (R99). -/
def execIShup6 (s : State) : Result :=
  drive s (zext s.params.width (shup6Field s.word))

/-- I.SHKIND5: the class of `w[31:25]`, 0 LOGICAL, 1 ARITHMETIC or 2 INVALID; class 2 is a value, not a fault (R100). -/
def execIShkind5 (s : State) : Result :=
  let w := s.word
  let kind := shiftKind s.params.shiftTagStrict (shup5Field w) 0b0100000#7 (shiftTag w)
  drive s (BitVec.ofNat s.params.width (shiftKindCode kind))

/-- I.SHKIND6: the class of `w[31:26]`, 0 LOGICAL, 1 ARITHMETIC or 2 INVALID; class 2 is a value, not a fault (R101). -/
def execIShkind6 (s : State) : Result :=
  let w := s.word
  let kind := shiftKind s.params.shiftTagStrict (shup6Field w) 0b010000#6 (shiftTag w)
  drive s (BitVec.ofNat s.params.width (shiftKindCode kind))

/-- I.CSR: the CSR identifier `w[31:20]`, zero-extended (R102). -/
def execICsr (s : State) : Result :=
  drive s (zext s.params.width (immI s.word))

/-- I.ZIMM: the 5-bit literal `w[19:15]`, zero-extended (R103). -/
def execIZimm (s : State) : Result :=
  drive s (zext s.params.width (rs1Field s.word))

end Sys2Proof.Machine
end

