-- ==== Sys2Proof/Machine/ViewJ.lean ====
section
/-!
DEFINITION. The J-format view (spec/47_format_J.md R140 to R143). An accessor reads only the word `w = a[31:0]` and never faults
(30_encoding.md R36, R51).
-/

namespace Sys2Proof.Machine

/-- J.OPCODE: `w[6:0]`, zero-extended (R140). -/
def execJOpcode (s : State) : Result :=
  drive s (zext s.params.width (opcodeField s.word))

/-- J.RD: `w[11:7]`, zero-extended (R141). -/
def execJRd (s : State) : Result :=
  drive s (zext s.params.width (rdField s.word))

/-- J.IMM: the 21-bit jump offset, zero-extended (R142). -/
def execJImm (s : State) : Result :=
  drive s (zext s.params.width (immJ s.word))

/-- J.IMM_EXT: the jump offset, sign-extended (R143). -/
def execJImmExt (s : State) : Result :=
  drive s (sext s.params.width (immJ s.word))

end Sys2Proof.Machine
end

