-- ==== Sys2Proof/Machine/ViewR.lean ====
section
/-!
DEFINITION. The R-format view (spec/42_format_R.md R80 to R86). An accessor reads only the word `w = a[31:0]` and never faults
(30_encoding.md R36, R51).
-/

namespace Sys2Proof.Machine

/-- R.OPCODE: `w[6:0]`, zero-extended (R80). -/
def execROpcode (s : State) : Result :=
  drive s (zext s.params.width (opcodeField s.word))

/-- R.RD: `w[11:7]`, zero-extended (R81). -/
def execRRd (s : State) : Result :=
  drive s (zext s.params.width (rdField s.word))

/-- R.FUNCT3: `w[14:12]`, zero-extended (R82). -/
def execRFunct3 (s : State) : Result :=
  drive s (zext s.params.width (funct3Field s.word))

/-- R.RS1: `w[19:15]`, zero-extended (R83). -/
def execRRs1 (s : State) : Result :=
  drive s (zext s.params.width (rs1Field s.word))

/-- R.RS2: `w[24:20]`, zero-extended (R84). -/
def execRRs2 (s : State) : Result :=
  drive s (zext s.params.width (rs2Field s.word))

/-- R.FUNCT7: `w[31:25]`, zero-extended (R85). -/
def execRFunct7 (s : State) : Result :=
  drive s (zext s.params.width (funct7Field s.word))

/-- R.FUNCTION: the combined function key `{w[31:25], w[14:12]}`, zero-extended (R86). -/
def execRFunction (s : State) : Result :=
  drive s (zext s.params.width (functionKey s.word))

end Sys2Proof.Machine
end

