-- ==== Sys2Proof/Machine/ViewS.lean ====
section
/-!
DEFINITION. The S-format view (spec/44_format_S.md R110 to R115). An accessor reads only the word `w = a[31:0]` and never faults
(30_encoding.md R36, R51).
-/

namespace Sys2Proof.Machine

/-- S.OPCODE: `w[6:0]`, zero-extended (R110). -/
def execSOpcode (s : State) : Result :=
  drive s (zext s.params.width (opcodeField s.word))

/-- S.FUNCT3: `w[14:12]`, zero-extended (R111). -/
def execSFunct3 (s : State) : Result :=
  drive s (zext s.params.width (funct3Field s.word))

/-- S.RS1: `w[19:15]`, zero-extended (R112). -/
def execSRs1 (s : State) : Result :=
  drive s (zext s.params.width (rs1Field s.word))

/-- S.RS2: `w[24:20]`, zero-extended (R113). -/
def execSRs2 (s : State) : Result :=
  drive s (zext s.params.width (rs2Field s.word))

/-- S.IMM: the 12-bit store immediate, zero-extended (R114). -/
def execSImm (s : State) : Result :=
  drive s (zext s.params.width (immS s.word))

/-- S.IMM_EXT: the store immediate, sign-extended (R115). -/
def execSImmExt (s : State) : Result :=
  drive s (sext s.params.width (immS s.word))

end Sys2Proof.Machine
end

