-- ==== Sys2Proof/Machine/ViewU.lean ====
section
/-!
DEFINITION. The U-format view (spec/46_format_U.md R130 to R133). An accessor reads only the word `w = a[31:0]` and never faults
(30_encoding.md R36, R51).
-/

namespace Sys2Proof.Machine

/-- U.OPCODE: `w[6:0]`, zero-extended (R130). -/
def execUOpcode (s : State) : Result :=
  drive s (zext s.params.width (opcodeField s.word))

/-- U.RD: `w[11:7]`, zero-extended (R131). -/
def execURd (s : State) : Result :=
  drive s (zext s.params.width (rdField s.word))

/-- U.IMM: the 32-bit upper immediate, zero-extended (R132). -/
def execUImm (s : State) : Result :=
  drive s (zext s.params.width (immU s.word))

/-- U.IMM_EXT: the upper immediate, sign-extended (R133). -/
def execUImmExt (s : State) : Result :=
  drive s (sext s.params.width (immU s.word))

end Sys2Proof.Machine
end

