-- ==== Sys2Proof/Machine/Dispatch.lean ====
section
/-!
DEFINITION. One arm per operation, each one direct call of its meaning.
-/

namespace Sys2Proof.Machine

/-- The response of BFX to the operation `i` on the request ports of `s`. -/
def exec (i : Instr) (s : State) : Host.Outcome State Fault Refusal :=
  match i with
  | .extract => Sys2Proof.Machine.execExtract s
  | .set => Sys2Proof.Machine.execSet s
  | .extract32 => Sys2Proof.Machine.execExtract32 s
  | .set32 => Sys2Proof.Machine.execSet32 s
  | .sext => Sys2Proof.Machine.execSext s
  | .rOpcode => Sys2Proof.Machine.execROpcode s
  | .rRd => Sys2Proof.Machine.execRRd s
  | .rFunct3 => Sys2Proof.Machine.execRFunct3 s
  | .rRs1 => Sys2Proof.Machine.execRRs1 s
  | .rRs2 => Sys2Proof.Machine.execRRs2 s
  | .rFunct7 => Sys2Proof.Machine.execRFunct7 s
  | .rFunction => Sys2Proof.Machine.execRFunction s
  | .iOpcode => Sys2Proof.Machine.execIOpcode s
  | .iRd => Sys2Proof.Machine.execIRd s
  | .iFunct3 => Sys2Proof.Machine.execIFunct3 s
  | .iRs1 => Sys2Proof.Machine.execIRs1 s
  | .iShup5 => Sys2Proof.Machine.execIShup5 s
  | .iShup6 => Sys2Proof.Machine.execIShup6 s
  | .iImm => Sys2Proof.Machine.execIImm s
  | .iImmExt => Sys2Proof.Machine.execIImmExt s
  | .iShamt5 => Sys2Proof.Machine.execIShamt5 s
  | .iShamt6 => Sys2Proof.Machine.execIShamt6 s
  | .iShkind5 => Sys2Proof.Machine.execIShkind5 s
  | .iShkind6 => Sys2Proof.Machine.execIShkind6 s
  | .iCsr => Sys2Proof.Machine.execICsr s
  | .iZimm => Sys2Proof.Machine.execIZimm s
  | .sOpcode => Sys2Proof.Machine.execSOpcode s
  | .sFunct3 => Sys2Proof.Machine.execSFunct3 s
  | .sRs1 => Sys2Proof.Machine.execSRs1 s
  | .sRs2 => Sys2Proof.Machine.execSRs2 s
  | .sImm => Sys2Proof.Machine.execSImm s
  | .sImmExt => Sys2Proof.Machine.execSImmExt s
  | .bOpcode => Sys2Proof.Machine.execBOpcode s
  | .bFunct3 => Sys2Proof.Machine.execBFunct3 s
  | .bRs1 => Sys2Proof.Machine.execBRs1 s
  | .bRs2 => Sys2Proof.Machine.execBRs2 s
  | .bImm => Sys2Proof.Machine.execBImm s
  | .bImmExt => Sys2Proof.Machine.execBImmExt s
  | .uOpcode => Sys2Proof.Machine.execUOpcode s
  | .uRd => Sys2Proof.Machine.execURd s
  | .uImm => Sys2Proof.Machine.execUImm s
  | .uImmExt => Sys2Proof.Machine.execUImmExt s
  | .jOpcode => Sys2Proof.Machine.execJOpcode s
  | .jRd => Sys2Proof.Machine.execJRd s
  | .jImm => Sys2Proof.Machine.execJImm s
  | .jImmExt => Sys2Proof.Machine.execJImmExt s

end Sys2Proof.Machine
end

