-- ==== Sys2Proof/Machine/Step.lean ====
section
/-!
DEFINITION. One step is one evaluation of the request on the ports (spec/70_reset_and_hazards.md R173, R177).
-/

namespace Sys2Proof.Machine

/-- The response to the request on the ports: the operation the selector names, or the fault response SEL_RESERVED,
which looks at no other port (R39, R40, R153). -/
def step (s : State) : Host.Outcome State Fault Refusal :=
  match decode s.sel with
  | .ok i => exec i s
  | .error _ => raise s .selReserved

/-- The consumer selects the operation of an opcode-table word and leaves every other port as it is (log entry 7). -/
def State.withFetchWord (s : State) (nbits w : Nat) : State :=
  { s with sel := selOfTableWord nbits w }

end Sys2Proof.Machine
end

