-- ==== Sys2Proof/WellFormed.lean ====
section
/-!
DEFINITION. Well-formed requests and assembly lines. Every `Instr` is well formed: an operation carries no operand
(spec/30_encoding.md R35). What can be ill formed is a request whose numbers do not fit the ports of a build (10_state.md
R11; 95_test_vectors.md: "the operand does not fit the 32-bit `a` or `b` port, so the request does not exist"), and an
assembly line whose operands are not those of its mnemonic (30_encoding.md R53).
-/

namespace Sys2Proof

/-- Every number of the request fits its port (R11). -/
def Request.WellFormed (p : BuildParams) (r : Request) : Bool :=
  decide (r.sel < 2 ^ 8) && decide (r.a < 2 ^ p.width) && decide (r.b < 2 ^ p.width) &&
    decide (r.off < 2 ^ 7) && decide (r.wid < 2 ^ 7)

/-- The number of bits an operand has on the ports of a build (R11, R36). EXTRACT32 and SET32 are given the whole
`a` port and read its low half (R62, R63). -/
def Operand.bits (p : BuildParams) : Operand → Nat
  | .a | .a32 | .b => p.width
  | .w => 32
  | .off | .wid => 7

/-- The written operands are as many as the mnemonic reads, and each fits (R53, R54). -/
def AsmLine.WellFormed (p : BuildParams) (l : AsmLine) : Bool :=
  l.args.length == l.mnemonic.operands.length &&
    (l.args.zip l.mnemonic.operands).all fun x => decide (x.1 < 2 ^ x.2.bits p)

end Sys2Proof
end

