-- ==== Sys2Proof/Machine/Consumer.lean ====
section
/-!
DEFINITION. The consumer's side of the ports (spec/70_reset_and_hazards.md R175 to R178): driving a request, reading a
response, a program of requests, and a run that a fault ends (60_exceptions.md R155). None of it is state of BFX.
-/

namespace Sys2Proof.Machine

/-- The consumer drives the five input ports, between two evaluations (R35, R176). A number that does not fit its port
is cut to it; such a request does not exist (`Request.WellFormed`). -/
def State.drive (s : State) (r : Request) : State :=
  { s with
    sel := BitVec.ofNat 8 r.sel
    a := BitVec.ofNat s.params.width r.a
    b := BitVec.ofNat s.params.width r.b
    off := BitVec.ofNat 7 r.off
    wid := BitVec.ofNat 7 r.wid }

/-- What a consumer may use of a response: `y` only when `fault = 0` (R152, R175). -/
structure Response where
  y : Option Nat
  fault : Bool
  fcode : Nat
deriving DecidableEq, Repr

/-- The response on the output ports, as a consumer reads it. -/
def State.observe (s : State) : Response where
  y := if s.fault then none else some s.y.toNat
  fault := s.fault
  fcode := s.fcode.toNat

/-- The response an outcome of a step carries; none where the step stops. -/
def observeResult : Result → Option Response
  | .next t => some t.observe
  | .fault _ => none
  | .refused _ => none

/-- The response to one request (R10, R173). -/
def respond (s : State) (r : Request) : Option Response := observeResult (step (s.drive r))

/-- The responses to a program, "a finite list of requests the consumer sends one after another" (R178), each request
driven on the instance as the one before left it. -/
def respondAll (s : State) : List Request → List Response
  | [] => []
  | r :: rs =>
    match step (s.drive r) with
    | .next t => t.observe :: respondAll t rs
    | .fault _ => []
    | .refused _ => []

/-- A consumer's run: a faulted response that reaches it is "a fault of that run, and the run is never final" (R155,
D25). -/
def consumerRun (s : State) : List Request → Result
  | [] => .next s
  | r :: rs =>
    match step (s.drive r) with
    | .next t => if t.fault then .fault (.reachedConsumer t.fcode) else consumerRun t rs
    | .fault e => .fault e
    | .refused e => .refused e

/-- A consumer that assembles the word from four fetched bytes: the byte at the lowest address supplies `w[7:0]` (R27,
D14; PRESUMED, log entry 9). -/
def wordOfBytes (b0 b1 b2 b3 : Byte) : Word := b3 ++ b2 ++ b1 ++ b0

end Sys2Proof.Machine
end

