-- ==== Sys2Proof/Safety.lean ====
section
/-!
DEFINITION. What counts as safe, and the terms the claims are made in: the response ports agree with each other and with
the build (spec/10_state.md R12, 60_exceptions.md R150, R151), an outcome that answers or refuses a request and leaves
everything else as it was, the operands two states share (10_state.md R13), the reserved selectors (30_encoding.md R40),
and the spec's own arithmetic notation (00_scope.md section 5). Nothing here is used by the machine.
-/

namespace Sys2Proof.Machine

/-- The response ports are consistent: `fault` is 1 exactly when `fcode` is not 0 (R151), and `OVERSIZE` comes only from
a build with `BF_SET_OVERSIZE = fault` (R65, R150). -/
structure State.Inv (s : State) : Prop where
  faultIffCode : s.fault = true ↔ s.fcode ≠ 0#2
  oversizeOnlyIfBuilt : s.fcode = 0b11#2 → s.params.setOversize = .fault

/-- The outcome is a next state in which the response is `y = v`, `fault = 0`, `fcode = 0`, and the build parameters, the
five input ports and the model's counter are those of `s`. -/
def Answers (o : Result) (s : State) (v : BitVec s.params.width) : Prop :=
  o = .next { s with y := v, fault := false, fcode := 0b00#2 }

/-- The outcome is a next state in which the response is `fault = 1`, `fcode = k`, with nothing said of `y` or of the
model's counter (R152), and the build parameters and the five input ports are those of `s`. -/
def Refuses (o : Result) (s : State) (k : FCode) : Prop :=
  ∃ (v : BitVec s.params.width) (d : Nat), o = .next { s with y := v, fault := true, fcode := k, draws := d }

/-- The number a consumer may read on `y` after the operation `i`: none when the response is a fault. -/
def reply (i : Instr) (s : State) : Option Nat := (observeResult (exec i s)).bind (·.y)

/-- Two states carry the same value of one operand (R13, R36). -/
def operandAgrees (s t : State) (o : Operand) : Prop :=
  match o with
  | .a => s.a.toNat = t.a.toNat
  | .a32 | .w => s.a.toNat % 2 ^ 32 = t.a.toNat % 2 ^ 32
  | .b => s.b.toNat = t.b.toNat
  | .off => s.off = t.off
  | .wid => s.wid = t.wid

/-- The numbers R40 lists as reserved selector values. -/
def ReservedValue (n : Nat) : Prop :=
  (0x05 ≤ n ∧ n ≤ 0x0F) ∨ (0x17 ≤ n ∧ n ≤ 0x1F) ∨ n = 0x24 ∨ n = 0x25 ∨ n = 0x31 ∨ (0x35 ≤ n ∧ n ≤ 0x37) ∨
  (0x3A ≤ n ∧ n ≤ 0x3F) ∨ n = 0x41 ∨ (0x45 ≤ n ∧ n ≤ 0x47) ∨ (0x4A ≤ n ∧ n ≤ 0x4F) ∨ (0x52 ≤ n ∧ n ≤ 0x57) ∨
  (0x5A ≤ n ∧ n ≤ 0x5F) ∨ (0x62 ≤ n ∧ n ≤ 0x67) ∨ (0x6A ≤ n ∧ n ≤ 0x6F) ∨ (0x70 ≤ n ∧ n ≤ 0xFF)

/-- The selector is reserved (R40). -/
def Reserved (sel : Selector) : Prop := ReservedValue sel.toNat

/-- `v[hi:lo]`, "the unsigned value of bits `hi` down to `lo` of `v`" (00_scope.md section 5). -/
def bits (v hi lo : Nat) : Nat := v / 2 ^ lo % 2 ^ (hi - lo + 1)

/-- `signed(v)` of a value of `n` bits: its two's-complement reading (00_scope.md section 5). -/
def signedOf (n v : Nat) : Int := if v < 2 ^ (n - 1) then (v : Int) else (v : Int) - 2 ^ n

/-- The bitfield range check in the words of R64, for the container width `W`. -/
def InRange (W : Nat) (off wid : Pos) : Prop := 1 ≤ wid.toNat ∧ off.toNat + wid.toNat ≤ W

/-- The source-width check of SEXT in the words of R71. -/
def SourceWidthLegal (W : Nat) (wid : Pos) : Prop := 1 ≤ wid.toNat ∧ wid.toNat ≤ W

/-- The build refuses the field value on `b` (R65): a bit of `b` at or above `wid`, and `BF_SET_OVERSIZE = fault`. -/
def RefusesFieldValue (s : State) : Prop := s.params.setOversize = .fault ∧ 2 ^ s.wid.toNat ≤ s.b.toNat

end Sys2Proof.Machine
end

