-- ==== Sys2Proof/Certificates/Slice0/Obligations.lean ====
section
/-!
DEFINITION. The statements for the provers. Each docstring names the rules of spec/ it formalises. Results are written in
the spec's own arithmetic on numbers (`bits`, `signedOf`), not with the operations the model uses. Where a statement says
`Answers` or `Refuses`, it says the whole next state: every port and parameter it does not name is unchanged.
-/

section

open Sys2Proof Sys2Proof.Machine

/-! ## Encoding and the step -/

/-- A few selectors written out from the table of R39, and two reserved ones (R40). -/
def Obligations.DecodeSpotWords : Prop :=
  decodeTableWord 8 0b00000000 = some .extract ∧ decodeTableWord 8 0b00000100 = some .sext ∧
  decodeTableWord 8 0b00010110 = some .rFunction ∧ decodeTableWord 8 0b00101101 = some .iShkind6 ∧
  decodeTableWord 8 0b00111001 = some .sImmExt ∧ decodeTableWord 8 0b01001001 = some .bImmExt ∧
  decodeTableWord 8 0b01011000 = some .uImm ∧ decodeTableWord 8 0b01101001 = some .jImmExt ∧
  decodeTableWord 8 0b00100100 = none ∧ decodeTableWord 8 0b01110000 = none

/-- One step evaluates the operation the selector names, and nothing else is done around it (R37, R39, R173). The second
clause is the model's choice, not the spec's: that presenting an opcode-table word sets `sel` alone (log entry 7, DESIGN
CHOICE), and that a number `w` of any size is cut to the 8 bits of `sel` (log entry 11, DESIGN CHOICE). -/
def Obligations.StepRunsDecoded : Prop :=
  (∀ (s : State) (i : Instr), decode s.sel = .ok i → step s = exec i s) ∧
  (∀ (s : State) (w : Nat) (i : Instr), decodeTableWord 8 w = some i →
    step (s.withFetchWord 8 w) = exec i (s.withFetchWord 8 w))

/-- Decode and encode agree in both directions, for all 46 operations and all 256 selectors: a selector decodes to `i`
exactly when it is the one R39 gives `i`, no two operations share one, and a selector decodes to nothing exactly when R40
lists it as reserved. The group code of R37 is the upper half. -/
def Obligations.DecodeEncodeAgree : Prop :=
  (∀ (sel : Selector) (i : Instr), decode sel = .ok i ↔ sel = encode i) ∧
  (∀ i j : Instr, encode i = encode j → i = j) ∧
  (∀ sel : Selector, (∃ e, decode sel = .error e) ↔ Reserved sel) ∧
  (∀ i : Instr, (encode i).toNat / 16 =
    match i.group with
    | .prim => 0 | .r => 1 | .i => 2 | .s => 3 | .b => 4 | .u => 5 | .j => 6)

/-- R40: a reserved selector is refused with `fault = 1` and `fcode = SEL_RESERVED` whatever the other inputs are, it is
no alias of a legal one, and there are 210 reserved values. -/
def Obligations.ReservedSelectorsRefused : Prop :=
  (∀ s : State, Reserved s.sel → Refuses (step s) s 0b01#2 ∧ ∀ i, encode i ≠ s.sel) ∧
  ∃ l : List Selector, l.Nodup ∧ l.length = 210 ∧ ∀ sel, sel ∈ l ↔ Reserved sel

/-- R173 (a request never hangs): every step of every state answers a next state, which differs from the one before in
the response ports and the model's counter only. -/
def Obligations.StepAlwaysAnswers : Prop :=
  ∀ s : State, (∃ v, Answers (step s) s v) ∨ (∃ k, k ≠ 0b00#2 ∧ Refuses (step s) s k)

/-! ## Whole-machine rules -/

/-- R10: nothing is kept from one request to the next. Two instances of one build with the same input ports give the same
response, whatever their output ports and history are. -/
def Obligations.ResponseDependsOnlyOnRequest : Prop :=
  ∀ s t : State, s.params = t.params → s.sel = t.sel → s.a.toNat = t.a.toNat → s.b.toNat = t.b.toNat →
    s.off = t.off → s.wid = t.wid →
    observeResult (step s) = observeResult (step t) ∧ (observeResult (step s)).isSome = true

/-- R13 and R36: an input port the selected operation does not read has no effect on the response, and each operation
reads exactly the ports R13 names; a view reads only `a[31:0]`. -/
def Obligations.UnreadPortsHaveNoEffect : Prop :=
  (∀ (i : Instr) (s t : State), s.params = t.params → (∀ o ∈ i.operands, operandAgrees s t o) →
    observeResult (exec i s) = observeResult (exec i t)) ∧
  (∀ i : Instr, i.group ≠ .prim → i.operands = [.w]) ∧
  Instr.sext.operands = [.a, .wid] ∧ Instr.extract.operands = [.a, .off, .wid] ∧
  Instr.extract32.operands = [.a32, .off, .wid] ∧ Instr.set.operands = [.a, .b, .off, .wid] ∧
  Instr.set32.operands = [.a32, .b, .off, .wid]

/-- R171: the build parameters are set when the instance is built and no request changes them, in any run and however
the consumer drives the ports; power-up keeps their build value. -/
def Obligations.BuildParametersFixed : Prop :=
  (∀ p, (State.powerUp p).params = p) ∧
  (∀ (s : State) (r : Request), (s.drive r).params = s.params) ∧
  (∀ (k : Nat) (s t : State), Host.Core.run Sys2Proof.core k s = .next t → t.params = s.params)

/-- R170 and R172: straight after power-up a request gets exactly the response it gets from any other instance of the
build, with nothing set up before. -/
def Obligations.PowerUpAnswersAsAnyInstance : Prop :=
  ∀ (s : State) (r : Request), r.WellFormed s.params = true →
    respond (State.powerUp s.params) r = respond s r ∧ (respond s r).isSome = true

/-- The response ports are consistent at power-up, for every build. The values themselves are the model's choice (log
entry 4), not the spec's. -/
def Obligations.PowerUpInv : Prop := (∀ p, (State.powerUp p).Inv) ∧ State.reset.Inv

/-- R12, R150, R151 as an invariant: every step, and every request the consumer drives, keeps the response ports
consistent with each other and with the build. -/
def Obligations.StepKeepsInv : Prop :=
  ∀ s : State, s.Inv → (∀ t, step s = .next t → t.Inv) ∧ (∀ r : Request, (s.drive r).Inv)

/-- R154: a fault has no effect outside its own response. The input ports and parameters are as they were, and the next
request gets the response it would have had if the faulted one had never happened. -/
def Obligations.FaultIsPrecise : Prop :=
  ∀ s t : State, step s = .next t → t.fault = true →
    Refuses (step s) s t.fcode ∧ ∀ r : Request, respond t r = respond s r

/-- R31, R162 and R176: in any sequence of requests, on a shared instance or on instances of their own, each request gets
the response it gets alone; so neither order nor sharing can change a response, and none is lost. That the parallel
requests R31 and R162 speak of, of one hart or several, stand in one sequence is the model's reading (log entry 12,
DEDUCED): two at the very same moment are not in it. -/
def Obligations.SequencesDoNotInterfere : Prop :=
  ∀ (s t : State) (rs : List Request), s.params = t.params →
    respondAll s rs = rs.filterMap (respond t) ∧ (respondAll s rs).length = rs.length

/-- A consumer's run is final exactly when none of its responses is a fault; otherwise it ends in the fault of the first
faulted response. R155 and D25 say only that a fault is "a fault of that run, and the run is never final"; that the run
ends there, with the FIRST faulted response's code, is the model's choice (log entry 15, DEDUCED). -/
def Obligations.FaultedRunIsNeverFinal : Prop :=
  ∀ (s : State) (rs : List Request),
    ((∃ t, consumerRun s rs = .next t) ↔ ∀ x ∈ respondAll s rs, x.fault = false) ∧
    (∀ k, consumerRun s rs = .fault (.reachedConsumer k) ↔
      (((respondAll s rs).find? (·.fault)).map (·.fcode)) = some k.toNat)

/-! ## Faults -/

/-- R64, R65, R71, R150, R151, R153: when each fault code is the response, exactly. The codes are NONE 0, SEL_RESERVED 1,
RANGE 2, OVERSIZE 3; `fault = 1` exactly when the code is not 0. OVERSIZE needs a legal position, so RANGE comes first; a
reserved selector comes before both. No view selector is in any of the three. Where the build masks instead of refusing
(R65), SET and SET32 respond as if `b` were cut to `wid` bits. -/
def Obligations.FaultsExactly : Prop :=
  ∀ s : State, (∃ t, step s = .next t ∧
    (t.fault = true ↔ t.fcode ≠ 0b00#2) ∧
    (t.fcode = 0b01#2 ↔ Reserved s.sel) ∧
    (t.fcode = 0b10#2 ↔
      ((s.sel = 0x00#8 ∨ s.sel = 0x01#8) ∧ ¬ InRange s.params.width s.off s.wid) ∨
      ((s.sel = 0x02#8 ∨ s.sel = 0x03#8) ∧ ¬ InRange 32 s.off s.wid) ∨
      (s.sel = 0x04#8 ∧ ¬ SourceWidthLegal s.params.width s.wid)) ∧
    (t.fcode = 0b11#2 ↔
      ((s.sel = 0x01#8 ∧ InRange s.params.width s.off s.wid) ∨ (s.sel = 0x03#8 ∧ InRange 32 s.off s.wid)) ∧
      RefusesFieldValue s)) ∧
    (s.params.setOversize = .mask → s.sel = 0x01#8 ∨ s.sel = 0x03#8 →
      observeResult (step s) = observeResult (step { s with b := BitVec.ofNat _ (s.b.toNat % 2 ^ s.wid.toNat) }))

/-! ## The bitfield operations -/

/-- R60. EXTRACT: `sel = 0x00`; in range, `y` is `a[off+wid-1:off]`, zero-extended; out of range, RANGE. -/
def Obligations.ExtractRule : Prop :=
  decode 0x00#8 = .ok .extract ∧
  ∀ s : State,
    (InRange s.params.width s.off s.wid →
      Answers (exec .extract s) s
        (BitVec.ofNat _ (bits s.a.toNat (s.off.toNat + s.wid.toNat - 1) s.off.toNat))) ∧
    (¬ InRange s.params.width s.off s.wid → Refuses (exec .extract s) s 0b10#2)

/-- R61. SET: `sel = 0x01`; in range and not refused for its value, bit `off + j` of `y` is bit `j` of `b` for `j` below
`wid`, and every other bit is that of `a`; RANGE out of range; OVERSIZE in range when the build refuses the value. -/
def Obligations.SetRule : Prop :=
  decode 0x01#8 = .ok .set ∧
  ∀ s : State,
    (InRange s.params.width s.off s.wid → ¬ RefusesFieldValue s →
      ∃ v, Answers (exec .set s) s v ∧ ∀ k < s.params.width, v.getLsbD k =
        if s.off.toNat ≤ k ∧ k < s.off.toNat + s.wid.toNat then s.b.getLsbD (k - s.off.toNat) else s.a.getLsbD k) ∧
    (¬ InRange s.params.width s.off s.wid → Refuses (exec .set s) s 0b10#2) ∧
    (InRange s.params.width s.off s.wid → RefusesFieldValue s → Refuses (exec .set s) s 0b11#2)

/-- R62. EXTRACT32: `sel = 0x02`; the container is `a[31:0]`; at `XLEN = 32` it is EXTRACT. -/
def Obligations.Extract32Rule : Prop :=
  decode 0x02#8 = .ok .extract32 ∧
  ∀ s : State,
    (InRange 32 s.off s.wid →
      Answers (exec .extract32 s) s
        (BitVec.ofNat _ (bits (bits s.a.toNat 31 0) (s.off.toNat + s.wid.toNat - 1) s.off.toNat))) ∧
    (¬ InRange 32 s.off s.wid → Refuses (exec .extract32 s) s 0b10#2) ∧
    (s.params.xlen = .x32 → exec .extract32 s = exec .extract s)

/-- R63. SET32: `sel = 0x03`; the container is `a[31:0]`, the bits of `y` above it are 0, the oversize check reads the
whole `b`; at `XLEN = 32` it is SET. -/
def Obligations.Set32Rule : Prop :=
  decode 0x03#8 = .ok .set32 ∧
  ∀ s : State,
    (InRange 32 s.off s.wid → ¬ RefusesFieldValue s →
      ∃ v, Answers (exec .set32 s) s v ∧ ∀ k < s.params.width, v.getLsbD k =
        if 32 ≤ k then false
        else if s.off.toNat ≤ k ∧ k < s.off.toNat + s.wid.toNat then s.b.getLsbD (k - s.off.toNat)
        else s.a.getLsbD k) ∧
    (¬ InRange 32 s.off s.wid → Refuses (exec .set32 s) s 0b10#2) ∧
    (InRange 32 s.off s.wid → RefusesFieldValue s → Refuses (exec .set32 s) s 0b11#2) ∧
    (s.params.xlen = .x32 → exec .set32 s = exec .set s)

/-- R65. After the range check has passed, `BF_SET_OVERSIZE = mask` drops the bits of `b` at and above `wid` and raises
nothing; `BF_SET_OVERSIZE = fault` refuses them with OVERSIZE, on the whole `b`, and nothing else. -/
def Obligations.OversizeRule : Prop :=
  ∀ (s : State) (i : Instr) (W : Nat), (i = .set ∧ W = s.params.width ∨ i = .set32 ∧ W = 32) → InRange W s.off s.wid →
    (s.params.setOversize = .mask →
      (∃ v, Answers (exec i s) s v) ∧
      reply i s = reply i { s with b := BitVec.ofNat _ (s.b.toNat % 2 ^ s.wid.toNat) }) ∧
    (s.params.setOversize = .fault →
      (2 ^ s.wid.toNat ≤ s.b.toNat → Refuses (exec i s) s 0b11#2) ∧
      (s.b.toNat < 2 ^ s.wid.toNat → ∃ v, Answers (exec i s) s v))

/-- R66, all four laws at both container widths: read after write, write back what was read, the frame, and disjoint
writes commute. `E` is the matching EXTRACT of `S`, and `W` their container width. -/
def Obligations.BitfieldLaws : Prop :=
  ∀ (s : State) (E S : Instr) (W : Nat),
    (E = .extract ∧ S = .set ∧ W = s.params.width ∨ E = .extract32 ∧ S = .set32 ∧ W = 32) →
    (∀ y, reply S s = some y →
      reply E { s with a := BitVec.ofNat _ y } = some (s.b.toNat % 2 ^ s.wid.toNat)) ∧
    (∀ f, reply E s = some f → reply S { s with b := BitVec.ofNat _ f } = some (s.a.toNat % 2 ^ W)) ∧
    (∀ y, reply S s = some y → ∀ k < W, ¬ (s.off.toNat ≤ k ∧ k < s.off.toNat + s.wid.toNat) →
      y.testBit k = s.a.toNat.testBit k) ∧
    (∀ (off' wid' : Pos) (b' : BitVec s.params.width) (y z : Nat),
      s.off.toNat + s.wid.toNat ≤ off'.toNat ∨ off'.toNat + wid'.toNat ≤ s.off.toNat →
      reply S s = some y → reply S { s with b := b', off := off', wid := wid' } = some z →
      reply S { s with a := BitVec.ofNat _ y, b := b', off := off', wid := wid' } =
        reply S { s with a := BitVec.ofNat _ z } ∧
      (reply S { s with a := BitVec.ofNat _ z }).isSome = true)

/-- R67 and R86. Every raw field accessor and every raw immediate that stands in one piece is EXTRACT32 at a fixed offset
and width; each scattered raw immediate is an OR of EXTRACT32 results shifted into place, and so is the function key of
R86, which is one-to-one on its two fields; and the consumer's masks of a register shift amount are EXTRACT at offset 0.
The sign-extended immediates (`ImmExtIsSextOfImm`) and the shift kinds (`ShiftKinds`) are no field accessors of R67. -/
def Obligations.AccessorsAreExtract32 : Prop :=
  ∀ s : State,
    let E : Pos → Pos → Option Nat := fun off wid => reply .extract32 { s with off := off, wid := wid }
    (∀ i ∈ [Instr.rOpcode, .iOpcode, .sOpcode, .bOpcode, .uOpcode, .jOpcode], reply i s = E 0 7) ∧
    (∀ i ∈ [Instr.rRd, .iRd, .uRd, .jRd], reply i s = E 7 5) ∧
    (∀ i ∈ [Instr.rFunct3, .iFunct3, .sFunct3, .bFunct3], reply i s = E 12 3) ∧
    (∀ i ∈ [Instr.rRs1, .iRs1, .sRs1, .bRs1, .iZimm], reply i s = E 15 5) ∧
    (∀ i ∈ [Instr.rRs2, .sRs2, .bRs2, .iShamt5], reply i s = E 20 5) ∧
    (∀ i ∈ [Instr.rFunct7, .iShup5], reply i s = E 25 7) ∧
    (∀ i ∈ [Instr.iImm, .iCsr], reply i s = E 20 12) ∧
    reply .iShamt6 s = E 20 6 ∧ reply .iShup6 s = E 26 6 ∧
    decode 0x16#8 = .ok .rFunction ∧
    (∃ e25 e12, E 25 7 = some e25 ∧ E 12 3 = some e12 ∧ reply .rFunction s = some (e12 ||| e25 <<< 3) ∧
      (e12 ||| e25 <<< 3) ≤ 1023 ∧ (e12 ||| e25 <<< 3) % 8 = e12 ∧ (e12 ||| e25 <<< 3) / 8 = e25) ∧
    (∃ e7 e25, E 7 5 = some e7 ∧ E 25 7 = some e25 ∧ reply .sImm s = some (e7 ||| e25 <<< 5)) ∧
    (∃ e7 e8 e25 e31, E 7 1 = some e7 ∧ E 8 4 = some e8 ∧ E 25 6 = some e25 ∧ E 31 1 = some e31 ∧
      reply .bImm s = some (e7 <<< 11 ||| e8 <<< 1 ||| e25 <<< 5 ||| e31 <<< 12)) ∧
    (∃ e12, E 12 20 = some e12 ∧ reply .uImm s = some (e12 <<< 12)) ∧
    (∃ e21 e20 e12 e31, E 21 10 = some e21 ∧ E 20 1 = some e20 ∧ E 12 8 = some e12 ∧ E 31 1 = some e31 ∧
      reply .jImm s = some (e21 <<< 1 ||| e20 <<< 11 ||| e12 <<< 12 ||| e31 <<< 20)) ∧
    reply .extract { s with off := 0, wid := 5 } = some (s.a.toNat &&& 0x1F) ∧
    reply .extract { s with off := 0, wid := 6 } = some (s.a.toNat &&& 0x3F)

/-! ## Sign and zero extension -/

/-- R70 and R71. SEXT: `sel = 0x04`; for `1 <= n <= XLEN` bit `i` of `y` is `a[i]` below `n` and `a[n-1]` at and above
it; any other width is RANGE. -/
def Obligations.SextRule : Prop :=
  decode 0x04#8 = .ok .sext ∧
  ∀ s : State,
    (SourceWidthLegal s.params.width s.wid →
      ∃ v, Answers (exec .sext s) s v ∧ ∀ k < s.params.width, v.getLsbD k =
        if k < s.wid.toNat then s.a.getLsbD k else s.a.getLsbD (s.wid.toNat - 1)) ∧
    (¬ SourceWidthLegal s.params.width s.wid → Refuses (exec .sext s) s 0b10#2)

/-- R72, all five laws of a SEXT that does not fault: its signed value, the low bits kept, idempotence, widening twice,
and when it equals ZEXT (which is EXTRACT at offset 0). -/
def Obligations.SextLaws : Prop :=
  ∀ (s : State) (y : Nat), reply .sext s = some y →
    signedOf s.params.width y = signedOf s.wid.toNat (s.a.toNat % 2 ^ s.wid.toNat) ∧
    y % 2 ^ s.wid.toNat = s.a.toNat % 2 ^ s.wid.toNat ∧
    reply .sext { s with a := BitVec.ofNat _ y } = some y ∧
    (∀ m : Pos, s.wid.toNat ≤ m.toNat → m.toNat ≤ s.params.width →
      reply .sext { s with a := BitVec.ofNat _ y, wid := m } = some y) ∧
    (reply .extract { s with off := 0 } = some y ↔
      s.a.getLsbD (s.wid.toNat - 1) = false ∨ s.wid.toNat = s.params.width)

/-- R54: the line `ZEXT a, n` is the request EXTRACT `a`, 0, `n`; its response is the zero extension of `a[n-1:0]`, and
RANGE exactly when `n = 0` or `n > XLEN`. -/
def Obligations.ZextIsExtractAtZero : Prop :=
  ∀ (s : State) (a n : Nat), (AsmLine.mk .zext [a, n]).WellFormed s.params = true →
    let r := (AsmLine.mk .zext [a, n]).assemble
    r.sel = 0x00 ∧ r.a = a ∧ r.off = 0 ∧ r.wid = n ∧
    respond s r =
      if n = 0 ∨ s.params.width < n then some { y := none, fault := true, fcode := 2 }
      else some { y := some (a % 2 ^ n), fault := false, fcode := 0 }

/-! ## The format views -/

/-- R41 (R80, R90, R110, R120, R130, R140): in every format the opcode is `w[6:0]`, whatever the word is. -/
def Obligations.OpcodeInEveryView : Prop :=
  (decode 0x10#8 = .ok .rOpcode ∧ decode 0x20#8 = .ok .iOpcode ∧ decode 0x30#8 = .ok .sOpcode ∧
    decode 0x40#8 = .ok .bOpcode ∧ decode 0x50#8 = .ok .uOpcode ∧ decode 0x60#8 = .ok .jOpcode) ∧
  ∀ s : State, ∀ i ∈ [Instr.rOpcode, .iOpcode, .sOpcode, .bOpcode, .uOpcode, .jOpcode],
    Answers (exec i s) s (BitVec.ofNat _ (bits (bits s.a.toNat 31 0) 6 0))

/-- R81 to R86. The R view's other fields, and the combined function key `funct3 | (funct7 << 3)`, which determines the
pair. -/
def Obligations.RViewFields : Prop :=
  (decode 0x11#8 = .ok .rRd ∧ decode 0x12#8 = .ok .rFunct3 ∧ decode 0x13#8 = .ok .rRs1 ∧
    decode 0x14#8 = .ok .rRs2 ∧ decode 0x15#8 = .ok .rFunct7 ∧ decode 0x16#8 = .ok .rFunction) ∧
  ∀ s : State, let w := bits s.a.toNat 31 0
    Answers (exec .rRd s) s (BitVec.ofNat _ (bits w 11 7)) ∧
    Answers (exec .rFunct3 s) s (BitVec.ofNat _ (bits w 14 12)) ∧
    Answers (exec .rRs1 s) s (BitVec.ofNat _ (bits w 19 15)) ∧
    Answers (exec .rRs2 s) s (BitVec.ofNat _ (bits w 24 20)) ∧
    Answers (exec .rFunct7 s) s (BitVec.ofNat _ (bits w 31 25)) ∧
    Answers (exec .rFunction s) s (BitVec.ofNat _ (bits w 14 12 ||| bits w 31 25 <<< 3)) ∧
    (bits w 14 12 ||| bits w 31 25 <<< 3) % 8 = bits w 14 12 ∧
    (bits w 14 12 ||| bits w 31 25 <<< 3) / 8 = bits w 31 25

/-- R91 to R93, R102, R103. The I view's register and function fields, the CSR identifier and the 5-bit literal, all
zero-extended. -/
def Obligations.IViewFields : Prop :=
  (decode 0x21#8 = .ok .iRd ∧ decode 0x22#8 = .ok .iFunct3 ∧ decode 0x23#8 = .ok .iRs1 ∧
    decode 0x2E#8 = .ok .iCsr ∧ decode 0x2F#8 = .ok .iZimm) ∧
  ∀ s : State, let w := bits s.a.toNat 31 0
    Answers (exec .iRd s) s (BitVec.ofNat _ (bits w 11 7)) ∧
    Answers (exec .iFunct3 s) s (BitVec.ofNat _ (bits w 14 12)) ∧
    Answers (exec .iRs1 s) s (BitVec.ofNat _ (bits w 19 15)) ∧
    Answers (exec .iCsr s) s (BitVec.ofNat _ (bits w 31 20)) ∧
    Answers (exec .iZimm s) s (BitVec.ofNat _ (bits w 19 15)) ∧
    reply .iCsr s = reply .iImm s ∧ reply .iZimm s = reply .iRs1 s

/-- R94 and R95. The I immediate, raw and sign-extended from 12 bits. -/
def Obligations.IViewImmediate : Prop :=
  (decode 0x28#8 = .ok .iImm ∧ decode 0x29#8 = .ok .iImmExt) ∧
  ∀ s : State, let imm := bits (bits s.a.toNat 31 0) 31 20
    Answers (exec .iImm s) s (BitVec.ofNat _ imm) ∧
    Answers (exec .iImmExt s) s (BitVec.ofInt _ (signedOf 12 imm)) ∧
    -2048 ≤ signedOf 12 imm ∧ signedOf 12 imm ≤ 2047

/-- R96 to R99. Both splits of a shift immediate: the shift amount and the bits above it. -/
def Obligations.ShiftSplits : Prop :=
  (decode 0x2A#8 = .ok .iShamt5 ∧ decode 0x2B#8 = .ok .iShamt6 ∧ decode 0x26#8 = .ok .iShup5 ∧
    decode 0x27#8 = .ok .iShup6) ∧
  ∀ s : State, let w := bits s.a.toNat 31 0
    Answers (exec .iShamt5 s) s (BitVec.ofNat _ (bits w 24 20)) ∧
    Answers (exec .iShamt6 s) s (BitVec.ofNat _ (bits w 25 20)) ∧
    Answers (exec .iShup5 s) s (BitVec.ofNat _ (bits w 31 25)) ∧
    Answers (exec .iShup6 s) s (BitVec.ofNat _ (bits w 31 26))

/-- R100 and R101. The class of the upper bits of a shift immediate, for both splits and both settings of
`SHIFT_TAG_STRICT`; class 2 is a value, not a fault. -/
def Obligations.ShiftKinds : Prop :=
  (decode 0x2C#8 = .ok .iShkind5 ∧ decode 0x2D#8 = .ok .iShkind6) ∧
  ∀ s : State, let w := bits s.a.toNat 31 0
    let kind : Nat → Nat → Nat := fun up tagPattern =>
      if up = 0 then 0
      else if s.params.shiftTagStrict = true then (if up = tagPattern then 1 else 2)
      else (if bits w 30 30 = 1 then 1 else 2)
    Answers (exec .iShkind5 s) s (BitVec.ofNat _ (kind (bits w 31 25) 0b0100000)) ∧
    Answers (exec .iShkind6 s) s (BitVec.ofNat _ (kind (bits w 31 26) 0b010000))

/-- R104. The identities among the I and R accessors, for every word. -/
def Obligations.IViewIdentities : Prop :=
  ∀ s : State, ∃ imm, reply .iImm s = some imm ∧
    reply .iCsr s = reply .iImm s ∧ reply .iZimm s = reply .iRs1 s ∧
    reply .iShamt5 s = some (imm &&& 0x1F) ∧ reply .iShamt6 s = some (imm &&& 0x3F) ∧
    reply .iShup5 s = some (imm >>> 5) ∧ reply .iShup5 s = reply .rFunct7 s ∧ reply .iShup6 s = some (imm >>> 6) ∧
    reply .iRd s = reply .rRd s ∧ reply .iFunct3 s = reply .rFunct3 s ∧ reply .iRs1 s = reply .rRs1 s

/-- R111 to R115. The S view: its fields, and the immediate whose upper and lower parts stand apart in the word. -/
def Obligations.SView : Prop :=
  (decode 0x32#8 = .ok .sFunct3 ∧ decode 0x33#8 = .ok .sRs1 ∧ decode 0x34#8 = .ok .sRs2 ∧
    decode 0x38#8 = .ok .sImm ∧ decode 0x39#8 = .ok .sImmExt) ∧
  ∀ s : State, let w := bits s.a.toNat 31 0
    let imm := bits w 31 25 * 2 ^ 5 + bits w 11 7
    Answers (exec .sFunct3 s) s (BitVec.ofNat _ (bits w 14 12)) ∧
    Answers (exec .sRs1 s) s (BitVec.ofNat _ (bits w 19 15)) ∧
    Answers (exec .sRs2 s) s (BitVec.ofNat _ (bits w 24 20)) ∧
    Answers (exec .sImm s) s (BitVec.ofNat _ imm) ∧
    Answers (exec .sImmExt s) s (BitVec.ofInt _ (signedOf 12 imm)) ∧
    -2048 ≤ signedOf 12 imm ∧ signedOf 12 imm ≤ 2047

/-- R121 to R125. The B view: its fields, and the branch offset reassembled from four pieces, always even. -/
def Obligations.BView : Prop :=
  (decode 0x42#8 = .ok .bFunct3 ∧ decode 0x43#8 = .ok .bRs1 ∧ decode 0x44#8 = .ok .bRs2 ∧
    decode 0x48#8 = .ok .bImm ∧ decode 0x49#8 = .ok .bImmExt) ∧
  ∀ s : State, let w := bits s.a.toNat 31 0
    let imm := bits w 31 31 * 2 ^ 12 + bits w 7 7 * 2 ^ 11 + bits w 30 25 * 2 ^ 5 + bits w 11 8 * 2
    Answers (exec .bFunct3 s) s (BitVec.ofNat _ (bits w 14 12)) ∧
    Answers (exec .bRs1 s) s (BitVec.ofNat _ (bits w 19 15)) ∧
    Answers (exec .bRs2 s) s (BitVec.ofNat _ (bits w 24 20)) ∧
    Answers (exec .bImm s) s (BitVec.ofNat _ imm) ∧
    Answers (exec .bImmExt s) s (BitVec.ofInt _ (signedOf 13 imm)) ∧
    imm ≤ 8190 ∧ -4096 ≤ signedOf 13 imm ∧ signedOf 13 imm ≤ 4094 ∧ signedOf 13 imm % 2 = 0

/-- R131 to R133. The U view: rd, and the upper immediate in its natural position, sign-extended from bit 31. -/
def Obligations.UView : Prop :=
  (decode 0x51#8 = .ok .uRd ∧ decode 0x58#8 = .ok .uImm ∧ decode 0x59#8 = .ok .uImmExt) ∧
  ∀ s : State, let w := bits s.a.toNat 31 0
    let imm := bits w 31 12 * 2 ^ 12
    Answers (exec .uRd s) s (BitVec.ofNat _ (bits w 11 7)) ∧
    Answers (exec .uImm s) s (BitVec.ofNat _ imm) ∧
    Answers (exec .uImmExt s) s (BitVec.ofInt _ (signedOf 32 imm)) ∧
    (s.params.xlen = .x32 → reply .uImmExt s = reply .uImm s)

/-- R141 to R143. The J view: rd, and the jump offset reassembled from four pieces, always even. -/
def Obligations.JView : Prop :=
  (decode 0x61#8 = .ok .jRd ∧ decode 0x68#8 = .ok .jImm ∧ decode 0x69#8 = .ok .jImmExt) ∧
  ∀ s : State, let w := bits s.a.toNat 31 0
    let imm := bits w 31 31 * 2 ^ 20 + bits w 19 12 * 2 ^ 12 + bits w 20 20 * 2 ^ 11 + bits w 30 21 * 2
    Answers (exec .jRd s) s (BitVec.ofNat _ (bits w 11 7)) ∧
    Answers (exec .jImm s) s (BitVec.ofNat _ imm) ∧
    Answers (exec .jImmExt s) s (BitVec.ofInt _ (signedOf 21 imm)) ∧
    imm ≤ 0x1FFFFE ∧ -1048576 ≤ signedOf 21 imm ∧ signedOf 21 imm ≤ 1048574 ∧ signedOf 21 imm % 2 = 0

/-- R50 and R74: a view's `imm_ext` is SEXT of the raw immediate the same view returns, from the format's width, and
every bit of it from that width up is `w[31]`. -/
def Obligations.ImmExtIsSextOfImm : Prop :=
  ∀ s : State, ∀ x ∈ [(Instr.iImm, Instr.iImmExt, 12#7), (.sImm, .sImmExt, 12#7), (.bImm, .bImmExt, 13#7),
      (.uImm, .uImmExt, 32#7), (.jImm, .jImmExt, 21#7)],
    ∃ raw ext, reply x.1 s = some raw ∧ reply x.2.1 s = some ext ∧
      reply .sext { s with a := BitVec.ofNat _ raw, wid := x.2.2 } = some ext ∧
      raw.testBit (x.2.2.toNat - 1) = s.a.getLsbD 31 ∧
      ∀ k, x.2.2.toNat ≤ k → k < s.params.width → ext.testBit k = s.a.getLsbD 31

/-- R51: the format views are total over 32-bit words; any view applied to any word answers and never faults. -/
def Obligations.ViewsAreTotal : Prop :=
  ∀ (i : Instr) (s : State), i.group ≠ .prim →
    ∃ v, Answers (exec i s) s v ∧ reply i s = some v.toNat

/-! ## Round trips through an instruction word -/

/-- The round trip of the source's section 8 (95_test_vectors.md E1 and E2; R66, R67): a field value written into any
word with SET32 at a view's field position is what that view's accessor then returns, for the opcode, rd, funct3, rs1,
rs2, funct7 and the I immediate in every view that has them. -/
def Obligations.FieldRoundTrip : Prop :=
  ∀ (s : State), ∀ x ∈ [(Instr.rOpcode, 0#7, 7#7), (.iOpcode, 0, 7), (.sOpcode, 0, 7), (.bOpcode, 0, 7),
      (.uOpcode, 0, 7), (.jOpcode, 0, 7), (.rRd, 7, 5), (.iRd, 7, 5), (.uRd, 7, 5), (.jRd, 7, 5),
      (.rFunct3, 12, 3), (.iFunct3, 12, 3), (.sFunct3, 12, 3), (.bFunct3, 12, 3), (.rRs1, 15, 5), (.iRs1, 15, 5), (.sRs1, 15, 5), (.bRs1, 15, 5),
      (.rRs2, 20, 5), (.sRs2, 20, 5), (.bRs2, 20, 5), (.rFunct7, 25, 7), (.iImm, 20, 12)],
    s.b.toNat < 2 ^ x.2.2.toNat →
    ∃ y, reply .set32 { s with off := x.2.1, wid := x.2.2 } = some y ∧
      reply x.1 { s with a := BitVec.ofNat _ y } = some s.b.toNat

/-- The immediate round trip of the source's section 8 for B, as the consumer does it (95_test_vectors.md E3 and the
method of P2; R63, R124, R125): scattering any even offset over any word with four SET32 requests and reading it back with
B.IMM and B.IMM_EXT gives the offset, and rs1, rs2, funct3 and opcode are still those of the word. -/
def Obligations.BranchOffsetScatter : Prop :=
  ∀ (s : State) (m : Nat), m < 2 ^ 13 → m % 2 = 0 →
    let put : Nat → Nat → Pos → Pos → Option Nat := fun word f off wid =>
      reply .set32 { s with a := BitVec.ofNat _ word, b := BitVec.ofNat _ f, off := off, wid := wid }
    ∃ y1 y2 y3 y4, put s.a.toNat (bits m 12 12) 31 1 = some y1 ∧ put y1 (bits m 11 11) 7 1 = some y2 ∧
      put y2 (bits m 10 5) 25 6 = some y3 ∧ put y3 (bits m 4 1) 8 4 = some y4 ∧
      let t : State := { s with a := BitVec.ofNat _ y4 }
      reply .bImm t = some m ∧
      reply .bImmExt t = some (BitVec.ofInt s.params.width (signedOf 13 m)).toNat ∧
      ∀ i ∈ [Instr.bOpcode, .bFunct3, .bRs1, .bRs2], reply i t = reply i s

/-- A word assembled from four fetched bytes has the byte at the lowest address in `w[7:0]` (R27). The order is the
spec's general-knowledge choice for a consumer, and this model's log entry 9; no BFX rule rests on it. -/
def Obligations.WordOfBytesLittleEndian : Prop :=
  ∀ b0 b1 b2 b3 : Byte,
    (wordOfBytes b0 b1 b2 b3).toNat = b0.toNat + b1.toNat * 2 ^ 8 + b2.toNat * 2 ^ 16 + b3.toNat * 2 ^ 24

end
end

