-- ==== Sys2Proof/Laws/State.lean ====
section
/-!
SUPPORT. One lemma per field per update of the state: `answer`, `refuse`, `drive` and `withFetchWord`.
-/

namespace Sys2Proof.Machine

/-! ### `answer` drives the response ports -/

@[simp] theorem State.answer_params (s : State) (v : BitVec s.params.width) :
    (s.answer v).params = s.params := rfl

@[simp] theorem State.answer_sel (s : State) (v : BitVec s.params.width) :
    (s.answer v).sel = s.sel := rfl

@[simp] theorem State.answer_a (s : State) (v : BitVec s.params.width) :
    (s.answer v).a = s.a := rfl

@[simp] theorem State.answer_b (s : State) (v : BitVec s.params.width) :
    (s.answer v).b = s.b := rfl

@[simp] theorem State.answer_off (s : State) (v : BitVec s.params.width) :
    (s.answer v).off = s.off := rfl

@[simp] theorem State.answer_wid (s : State) (v : BitVec s.params.width) :
    (s.answer v).wid = s.wid := rfl

@[simp] theorem State.answer_y (s : State) (v : BitVec s.params.width) :
    (s.answer v).y = v := rfl

@[simp] theorem State.answer_fault (s : State) (v : BitVec s.params.width) :
    (s.answer v).fault = false := rfl

@[simp] theorem State.answer_fcode (s : State) (v : BitVec s.params.width) :
    (s.answer v).fcode = 0#2 := rfl

@[simp] theorem State.answer_draws (s : State) (v : BitVec s.params.width) :
    (s.answer v).draws = s.draws := rfl

/-! ### `refuse` drives the response ports and advances the counter -/

@[simp] theorem State.refuse_params (s : State) (k : FaultKind) :
    (s.refuse k).params = s.params := rfl

@[simp] theorem State.refuse_sel (s : State) (k : FaultKind) :
    (s.refuse k).sel = s.sel := rfl

@[simp] theorem State.refuse_a (s : State) (k : FaultKind) :
    (s.refuse k).a = s.a := rfl

@[simp] theorem State.refuse_b (s : State) (k : FaultKind) :
    (s.refuse k).b = s.b := rfl

@[simp] theorem State.refuse_off (s : State) (k : FaultKind) :
    (s.refuse k).off = s.off := rfl

@[simp] theorem State.refuse_wid (s : State) (k : FaultKind) :
    (s.refuse k).wid = s.wid := rfl

@[simp] theorem State.refuse_y (s : State) (k : FaultKind) :
    (s.refuse k).y = (Config.unspecifiedY s.draws).setWidth s.params.width := rfl

@[simp] theorem State.refuse_fault (s : State) (k : FaultKind) :
    (s.refuse k).fault = true := rfl

@[simp] theorem State.refuse_fcode (s : State) (k : FaultKind) :
    (s.refuse k).fcode = faultCode k := rfl

@[simp] theorem State.refuse_draws (s : State) (k : FaultKind) :
    (s.refuse k).draws = s.draws + 1 := rfl

/-! ### `drive` sets the input ports -/

@[simp] theorem State.drive_params (s : State) (r : Request) :
    (s.drive r).params = s.params := rfl

@[simp] theorem State.drive_sel (s : State) (r : Request) :
    (s.drive r).sel = BitVec.ofNat 8 r.sel := rfl

@[simp] theorem State.drive_a (s : State) (r : Request) :
    (s.drive r).a = BitVec.ofNat s.params.width r.a := rfl

@[simp] theorem State.drive_b (s : State) (r : Request) :
    (s.drive r).b = BitVec.ofNat s.params.width r.b := rfl

@[simp] theorem State.drive_off (s : State) (r : Request) :
    (s.drive r).off = BitVec.ofNat 7 r.off := rfl

@[simp] theorem State.drive_wid (s : State) (r : Request) :
    (s.drive r).wid = BitVec.ofNat 7 r.wid := rfl

@[simp] theorem State.drive_y (s : State) (r : Request) :
    (s.drive r).y = s.y := rfl

@[simp] theorem State.drive_fault (s : State) (r : Request) :
    (s.drive r).fault = s.fault := rfl

@[simp] theorem State.drive_fcode (s : State) (r : Request) :
    (s.drive r).fcode = s.fcode := rfl

@[simp] theorem State.drive_draws (s : State) (r : Request) :
    (s.drive r).draws = s.draws := rfl

/-! ### `withFetchWord` sets the selector -/

@[simp] theorem State.withFetchWord_params (s : State) (nbits w : Nat) :
    (s.withFetchWord nbits w).params = s.params := rfl

@[simp] theorem State.withFetchWord_sel (s : State) (nbits w : Nat) :
    (s.withFetchWord nbits w).sel = selOfTableWord nbits w := rfl

@[simp] theorem State.withFetchWord_a (s : State) (nbits w : Nat) :
    (s.withFetchWord nbits w).a = s.a := rfl

@[simp] theorem State.withFetchWord_b (s : State) (nbits w : Nat) :
    (s.withFetchWord nbits w).b = s.b := rfl

@[simp] theorem State.withFetchWord_off (s : State) (nbits w : Nat) :
    (s.withFetchWord nbits w).off = s.off := rfl

@[simp] theorem State.withFetchWord_wid (s : State) (nbits w : Nat) :
    (s.withFetchWord nbits w).wid = s.wid := rfl

@[simp] theorem State.withFetchWord_y (s : State) (nbits w : Nat) :
    (s.withFetchWord nbits w).y = s.y := rfl

@[simp] theorem State.withFetchWord_fault (s : State) (nbits w : Nat) :
    (s.withFetchWord nbits w).fault = s.fault := rfl

@[simp] theorem State.withFetchWord_fcode (s : State) (nbits w : Nat) :
    (s.withFetchWord nbits w).fcode = s.fcode := rfl

@[simp] theorem State.withFetchWord_draws (s : State) (nbits w : Nat) :
    (s.withFetchWord nbits w).draws = s.draws := rfl

end Sys2Proof.Machine
end

