-- ==== Sys2Proof/Laws/Ops.lean ====
section
/-!
SUPPORT. The laws of the shared operations: the width of a build, the checks in the spec's words, the bit helpers as
numbers, the fields of a word, and what a raising operation can answer.
-/

namespace Sys2Proof.Machine

/-! ### The width of a build -/

theorem width_eq (p : BuildParams) : p.width = 32 ∧ p.xlen = .x32 ∨ p.width = 64 ∧ p.xlen = .x64 := by
  obtain ⟨x, _, _⟩ := p
  cases x <;> simp [BuildParams.width]

theorem width_ge (p : BuildParams) : 32 ≤ p.width := by
  have := width_eq p
  omega

theorem width_le (p : BuildParams) : p.width ≤ 64 := by
  have := width_eq p
  omega

/-! ### The checks -/

theorem bfOk_iff (W : Nat) (off wid : Pos) : bfOk W off wid = true ↔ InRange W off wid := by
  simp [bfOk, InRange]

theorem sextOk_iff (W : Nat) (wid : Pos) : sextOk W wid = true ↔ SourceWidthLegal W wid := by
  simp [sextOk, SourceWidthLegal]

/-- The oversize check as a comparison: `b` has a bit at or above `wid` exactly when `b` is at least `2 ^ wid`. -/
theorem oversize_iff {W : Nat} (b : BitVec W) (wid : Pos) : oversize b wid = true ↔ 2 ^ wid.toNat ≤ b.toNat := by
  have hb := b.isLt
  have hshift : b >>> wid.toNat = 0#W ↔ b.toNat < 2 ^ wid.toNat := by
    rw [← BitVec.toNat_inj, BitVec.toNat_ushiftRight, BitVec.toNat_ofNat, Nat.shiftRight_eq_div_pow, Nat.zero_mod]
    exact Nat.div_eq_zero_iff_lt (Nat.two_pow_pos _)
  simp only [oversize, Bool.and_eq_true, decide_eq_true_eq, Bool.not_eq_true', beq_eq_false_iff_ne, ne_eq, hshift,
    Nat.not_lt]
  constructor
  · exact fun h => h.2
  · intro h
    exact ⟨(Nat.pow_lt_pow_iff_right (by omega)).1 (Nat.lt_of_le_of_lt h hb), h⟩

theorem refusesOversize_iff (s : State) : refusesOversize s.params s.b s.wid = true ↔ RefusesFieldValue s := by
  simp [refusesOversize, RefusesFieldValue, oversize_iff, and_comm]

/-! ### The bit helpers as numbers -/

theorem toNat_zext {W n : Nat} (v : BitVec n) (h : n ≤ W) : (zext W v).toNat = v.toNat :=
  BitVec.toNat_setWidth_of_le h

theorem zext_eq_ofNat (W : Nat) {n : Nat} (v : BitVec n) : zext W v = BitVec.ofNat W v.toNat :=
  BitVec.eq_of_toNat_eq (by simp [zext])

theorem sext_eq_ofInt (W : Nat) {n : Nat} (v : BitVec n) : sext W v = BitVec.ofInt W v.toInt := rfl

theorem toInt_eq_signedOf {n : Nat} (v : BitVec n) (hn : 0 < n) : v.toInt = signedOf n v.toNat := by
  obtain ⟨m, rfl⟩ : ∃ m, n = m + 1 := ⟨n - 1, by omega⟩
  have : (2 : Nat) ^ (m + 1) = 2 * 2 ^ m := by rw [Nat.pow_succ, Nat.mul_comm]
  rw [BitVec.toInt_eq_toNat_cond, signedOf, this, Nat.add_sub_cancel]
  by_cases h : v.toNat < 2 ^ m
  · rw [if_pos h, if_pos (by omega)]
  · rw [if_neg h, if_neg (by omega), Int.pow_succ, Int.mul_comm]
    push_cast
    rfl

theorem toNat_extractLsb {n : Nat} (v : BitVec n) (hi lo : Nat) : (v.extractLsb hi lo).toNat = bits v.toNat hi lo := by
  rw [BitVec.extractLsb_toNat, bits, Nat.shiftRight_eq_div_pow]

theorem toNat_append_eq_add {m n : Nat} (x : BitVec m) (y : BitVec n) :
    (x ++ y).toNat = x.toNat * 2 ^ n + y.toNat := by
  rw [BitVec.toNat_append, ← Nat.shiftLeft_add_eq_or_of_lt y.isLt, Nat.shiftLeft_eq]

theorem toNat_fieldOf {W : Nat} (v : BitVec W) (off wid : Pos) :
    (fieldOf v off wid).toNat = v.toNat / 2 ^ off.toNat % 2 ^ wid.toNat := by
  rw [fieldOf, BitVec.extractLsb'_toNat, Nat.shiftRight_eq_div_pow]

theorem getLsbD_lowmask (W n k : Nat) : (lowmask W n).getLsbD k = (decide (k < W) && decide (k < n)) := by
  simp [lowmask, BitVec.getLsbD_ofNat, Nat.testBit_two_pow_sub_one]

/-- The bits of a container with a field inserted: the field's own inside its range, the container's outside. -/
theorem getLsbD_insertField {W : Nat} (c f : BitVec W) (off wid : Pos) (hf : f.toNat < 2 ^ wid.toNat) (k : Nat)
    (hk : k < W) :
    (insertField c f off wid).getLsbD k =
      if off.toNat ≤ k ∧ k < off.toNat + wid.toNat then f.getLsbD (k - off.toNat) else c.getLsbD k := by
  have hhigh : ∀ j, wid.toNat ≤ j → f.getLsbD j = false := fun j hj =>
    Nat.testBit_lt_two_pow (Nat.lt_of_lt_of_le hf (Nat.pow_le_pow_right (by omega) hj))
  simp only [insertField, BitVec.getLsbD_or, BitVec.getLsbD_and, BitVec.getLsbD_not, BitVec.getLsbD_shiftLeft,
    getLsbD_lowmask, hk]
  by_cases h1 : off.toNat ≤ k
  · by_cases h2 : k < off.toNat + wid.toNat
    · have : k - off.toNat < wid.toNat := by omega
      have : k - off.toNat < W := by omega
      simp [Nat.not_lt.2 h1, *]
    · have : ¬ k - off.toNat < wid.toNat := by omega
      simp [h1, h2, hhigh (k - off.toNat) (by omega), this]
  · simp [h1, Nat.lt_of_not_le h1]

/-- The bits of a sign extension from the field `[off+wid-1:off]`. -/
theorem getLsbD_sext_fieldOf {W : Nat} (v : BitVec W) (wid : Pos) (h : SourceWidthLegal W wid) (k : Nat) (hk : k < W) :
    (sext W (fieldOf v 0 wid)).getLsbD k =
      if k < wid.toNat then v.getLsbD k else v.getLsbD (wid.toNat - 1) := by
  obtain ⟨h1, -⟩ := h
  have hm : wid.toNat - 1 < wid.toNat := by omega
  simp only [sext, fieldOf, BitVec.getLsbD_signExtend, hk, decide_true, Bool.true_and, BitVec.getLsbD_extractLsb',
    BitVec.msb_eq_getLsbD_last, hm]
  by_cases h : k < wid.toNat <;> simp [h]

/-! ### The word and its fields -/

theorem toNat_word (s : State) : s.word.toNat = bits s.a.toNat 31 0 := by
  simp [State.word, bits]

theorem container32_eq_word (s : State) : s.container32 = s.word := rfl

theorem toNat_opcodeField (w : Word) : (opcodeField w).toNat = bits w.toNat 6 0 := toNat_extractLsb w 6 0

theorem toNat_rdField (w : Word) : (rdField w).toNat = bits w.toNat 11 7 := toNat_extractLsb w 11 7

theorem toNat_funct3Field (w : Word) : (funct3Field w).toNat = bits w.toNat 14 12 := toNat_extractLsb w 14 12

theorem toNat_rs1Field (w : Word) : (rs1Field w).toNat = bits w.toNat 19 15 := toNat_extractLsb w 19 15

theorem toNat_rs2Field (w : Word) : (rs2Field w).toNat = bits w.toNat 24 20 := toNat_extractLsb w 24 20

theorem toNat_funct7Field (w : Word) : (funct7Field w).toNat = bits w.toNat 31 25 := toNat_extractLsb w 31 25

theorem toNat_functionKey (w : Word) : (functionKey w).toNat = bits w.toNat 31 25 * 2 ^ 3 + bits w.toNat 14 12 := by
  rw [functionKey, toNat_append_eq_add, toNat_funct7Field, toNat_funct3Field]

theorem toNat_immI (w : Word) : (immI w).toNat = bits w.toNat 31 20 := toNat_extractLsb w 31 20

theorem toNat_immS (w : Word) : (immS w).toNat = bits w.toNat 31 25 * 2 ^ 5 + bits w.toNat 11 7 := by
  simp only [immS, toNat_append_eq_add, toNat_extractLsb]

theorem toNat_immB (w : Word) : (immB w).toNat =
    bits w.toNat 31 31 * 2 ^ 12 + bits w.toNat 7 7 * 2 ^ 11 + bits w.toNat 30 25 * 2 ^ 5 + bits w.toNat 11 8 * 2 := by
  simp only [immB, toNat_append_eq_add, toNat_extractLsb, BitVec.toNat_ofNat]
  omega

theorem toNat_immU (w : Word) : (immU w).toNat = bits w.toNat 31 12 * 2 ^ 12 := by
  simp only [immU, toNat_append_eq_add, toNat_extractLsb, BitVec.toNat_ofNat]
  omega

theorem toNat_immJ (w : Word) : (immJ w).toNat =
    bits w.toNat 31 31 * 2 ^ 20 + bits w.toNat 19 12 * 2 ^ 12 + bits w.toNat 20 20 * 2 ^ 11 + bits w.toNat 30 21 * 2 := by
  simp only [immJ, toNat_append_eq_add, toNat_extractLsb, BitVec.toNat_ofNat]
  omega

theorem toNat_shamt5Field (w : Word) : (shamt5Field w).toNat = bits w.toNat 24 20 := toNat_extractLsb w 24 20

theorem toNat_shamt6Field (w : Word) : (shamt6Field w).toNat = bits w.toNat 25 20 := toNat_extractLsb w 25 20

theorem toNat_shup5Field (w : Word) : (shup5Field w).toNat = bits w.toNat 31 25 := toNat_extractLsb w 31 25

theorem toNat_shup6Field (w : Word) : (shup6Field w).toNat = bits w.toNat 31 26 := toNat_extractLsb w 31 26

theorem shiftTag_iff (w : Word) : shiftTag w = true ↔ bits w.toNat 30 30 = 1 := by
  rw [shiftTag, BitVec.getLsbD, Nat.testBit_eq_decide_div_mod_eq, decide_eq_true_eq]
  exact Iff.rfl

theorem bits_lt (v hi lo : Nat) : bits v hi lo < 2 ^ (hi - lo + 1) := Nat.mod_lt _ (Nat.two_pow_pos _)

/-! ### Answering and raising -/

theorem drive_answers (s : State) (v : BitVec s.params.width) : Answers (drive s v) s v := rfl

theorem raise_refuses (s : State) (k : FaultKind) : Refuses (raise s k) s (faultCode k) := ⟨_, _, rfl⟩

/-- What a guarded operation answers: the fault response when the check fails, else the rest. -/
theorem raiseIf_cases (bad : Bool) (k : FaultKind) (s : State) (rest : Result) :
    bad = true ∧ raiseIf bad k s rest = raise s k ∨ bad = false ∧ raiseIf bad k s rest = rest := by
  cases bad <;> simp [raiseIf]

theorem raiseIf_of_true {bad : Bool} (h : bad = true) (k : FaultKind) (s : State) (rest : Result) :
    raiseIf bad k s rest = raise s k := by simp [raiseIf, h]

theorem raiseIf_of_false {bad : Bool} (h : bad = false) (k : FaultKind) (s : State) (rest : Result) :
    raiseIf bad k s rest = rest := by simp [raiseIf, h]

theorem observe_answer (s : State) (v : BitVec s.params.width) :
    (s.answer v).observe = { y := some v.toNat, fault := false, fcode := 0 } := rfl

theorem observe_refuse (s : State) (k : FaultKind) :
    (s.refuse k).observe = { y := none, fault := true, fcode := (faultCode k).toNat } := rfl

theorem reply_of_answers {i : Instr} {s : State} {v : BitVec s.params.width} (h : Answers (exec i s) s v) :
    reply i s = some v.toNat := by
  rw [reply, h]
  rfl

theorem reply_of_refuses {i : Instr} {s : State} {k : FCode} (h : Refuses (exec i s) s k) : reply i s = none := by
  obtain ⟨v, d, h⟩ := h
  rw [reply, h]
  rfl

end Sys2Proof.Machine
end

