-- ==== Sys2Proof/Laws/Exec.lean ====
section
/-!
SUPPORT. What the meanings and the step can do, said once: the primitives guard by guard, the views through one value
function, and one inversion lemma for all 46 operations.
-/

namespace Sys2Proof.Machine

/-! ### The primitives -/

theorem execExtract_of_inRange {s : State} (h : InRange s.params.width s.off s.wid) :
    exec .extract s = drive s (zext s.params.width (fieldOf s.a s.off s.wid)) :=
  raiseIf_of_false (by simp [(bfOk_iff _ _ _).2 h]) _ _ _

theorem execExtract_of_not_inRange {s : State} (h : ¬ InRange s.params.width s.off s.wid) :
    exec .extract s = raise s .range :=
  raiseIf_of_true (by simpa using mt (bfOk_iff _ _ _).1 h) _ _ _

theorem execExtract32_of_inRange {s : State} (h : InRange 32 s.off s.wid) :
    exec .extract32 s = drive s (zext s.params.width (fieldOf s.container32 s.off s.wid)) :=
  raiseIf_of_false (by simp [(bfOk_iff _ _ _).2 h]) _ _ _

theorem execExtract32_of_not_inRange {s : State} (h : ¬ InRange 32 s.off s.wid) :
    exec .extract32 s = raise s .range :=
  raiseIf_of_true (by simpa using mt (bfOk_iff _ _ _).1 h) _ _ _

theorem execSet_of_not_inRange {s : State} (h : ¬ InRange s.params.width s.off s.wid) :
    exec .set s = raise s .range :=
  raiseIf_of_true (by simpa using mt (bfOk_iff _ _ _).1 h) _ _ _

theorem execSet_of_refused {s : State} (h : InRange s.params.width s.off s.wid) (hv : RefusesFieldValue s) :
    exec .set s = raise s .oversize :=
  (raiseIf_of_false (by simp [(bfOk_iff _ _ _).2 h]) _ _ _).trans
    (raiseIf_of_true ((refusesOversize_iff s).2 hv) _ _ _)

theorem execSet_of_accepted {s : State} (h : InRange s.params.width s.off s.wid) (hv : ¬ RefusesFieldValue s) :
    exec .set s = drive s (insertField s.a (s.b &&& lowmask s.params.width s.wid.toNat) s.off s.wid) :=
  (raiseIf_of_false (by simp [(bfOk_iff _ _ _).2 h]) _ _ _).trans
    (raiseIf_of_false (by simpa using mt (refusesOversize_iff s).1 hv) _ _ _)

theorem execSet32_of_not_inRange {s : State} (h : ¬ InRange 32 s.off s.wid) : exec .set32 s = raise s .range :=
  raiseIf_of_true (by simpa using mt (bfOk_iff _ _ _).1 h) _ _ _

theorem execSet32_of_refused {s : State} (h : InRange 32 s.off s.wid) (hv : RefusesFieldValue s) :
    exec .set32 s = raise s .oversize :=
  (raiseIf_of_false (by simp [(bfOk_iff _ _ _).2 h]) _ _ _).trans
    (raiseIf_of_true ((refusesOversize_iff s).2 hv) _ _ _)

theorem execSet32_of_accepted {s : State} (h : InRange 32 s.off s.wid) (hv : ¬ RefusesFieldValue s) :
    exec .set32 s = drive s (zext s.params.width
      (insertField s.container32 ((s.b &&& lowmask s.params.width s.wid.toNat).setWidth 32) s.off s.wid)) :=
  (raiseIf_of_false (by simp [(bfOk_iff _ _ _).2 h]) _ _ _).trans
    (raiseIf_of_false (by simpa using mt (refusesOversize_iff s).1 hv) _ _ _)

theorem execSext_of_legal {s : State} (h : SourceWidthLegal s.params.width s.wid) :
    exec .sext s = drive s (sext s.params.width (fieldOf s.a 0 s.wid)) :=
  raiseIf_of_false (by simp [(sextOk_iff _ _).2 h]) _ _ _

theorem execSext_of_not_legal {s : State} (h : ¬ SourceWidthLegal s.params.width s.wid) :
    exec .sext s = raise s .range :=
  raiseIf_of_true (by simpa using mt (sextOk_iff _ _).1 h) _ _ _

/-! ### The views -/

/-- What a view accessor drives on `y`, as a function of the build and the word alone (0 for the primitives, which are
no accessors). -/
def viewValue (p : BuildParams) (w : Word) : Instr → BitVec p.width
  | .rOpcode | .iOpcode | .sOpcode | .bOpcode | .uOpcode | .jOpcode => zext p.width (opcodeField w)
  | .rRd | .iRd | .uRd | .jRd => zext p.width (rdField w)
  | .rFunct3 | .iFunct3 | .sFunct3 | .bFunct3 => zext p.width (funct3Field w)
  | .rRs1 | .iRs1 | .sRs1 | .bRs1 | .iZimm => zext p.width (rs1Field w)
  | .rRs2 | .sRs2 | .bRs2 => zext p.width (rs2Field w)
  | .rFunct7 => zext p.width (funct7Field w)
  | .rFunction => zext p.width (functionKey w)
  | .iShup5 => zext p.width (shup5Field w)
  | .iShup6 => zext p.width (shup6Field w)
  | .iImm | .iCsr => zext p.width (immI w)
  | .iImmExt => sext p.width (immI w)
  | .iShamt5 => zext p.width (shamt5Field w)
  | .iShamt6 => zext p.width (shamt6Field w)
  | .iShkind5 =>
    BitVec.ofNat p.width (shiftKindCode (shiftKind p.shiftTagStrict (shup5Field w) 0b0100000#7 (shiftTag w)))
  | .iShkind6 =>
    BitVec.ofNat p.width (shiftKindCode (shiftKind p.shiftTagStrict (shup6Field w) 0b010000#6 (shiftTag w)))
  | .sImm => zext p.width (immS w)
  | .sImmExt => sext p.width (immS w)
  | .bImm => zext p.width (immB w)
  | .bImmExt => sext p.width (immB w)
  | .uImm => zext p.width (immU w)
  | .uImmExt => sext p.width (immU w)
  | .jImm => zext p.width (immJ w)
  | .jImmExt => sext p.width (immJ w)
  | .extract | .set | .extract32 | .set32 | .sext => 0

/-- A view accessor drives its value and does nothing else. -/
theorem exec_view {i : Instr} (h : i.group ≠ .prim) (s : State) :
    exec i s = drive s (viewValue s.params s.word i) := by
  cases i <;> first | rfl | exact absurd rfl h

/-! ### All operations -/

/-- Everything an operation can do: answer, or raise RANGE, or raise OVERSIZE in a build that has it. -/
theorem exec_cases (i : Instr) (s : State) :
    (∃ v, exec i s = drive s v) ∨ exec i s = raise s .range ∨
      (exec i s = raise s .oversize ∧ s.params.setOversize = .fault) := by
  by_cases hg : i.group = .prim
  · cases i <;> first | exact absurd hg (by decide) | skip
    case extract =>
      by_cases h : InRange s.params.width s.off s.wid
      · exact .inl ⟨_, execExtract_of_inRange h⟩
      · exact .inr (.inl (execExtract_of_not_inRange h))
    case set =>
      by_cases h : InRange s.params.width s.off s.wid
      · by_cases hv : RefusesFieldValue s
        · exact .inr (.inr ⟨execSet_of_refused h hv, hv.1⟩)
        · exact .inl ⟨_, execSet_of_accepted h hv⟩
      · exact .inr (.inl (execSet_of_not_inRange h))
    case extract32 =>
      by_cases h : InRange 32 s.off s.wid
      · exact .inl ⟨_, execExtract32_of_inRange h⟩
      · exact .inr (.inl (execExtract32_of_not_inRange h))
    case set32 =>
      by_cases h : InRange 32 s.off s.wid
      · by_cases hv : RefusesFieldValue s
        · exact .inr (.inr ⟨execSet32_of_refused h hv, hv.1⟩)
        · exact .inl ⟨_, execSet32_of_accepted h hv⟩
      · exact .inr (.inl (execSet32_of_not_inRange h))
    case sext =>
      by_cases h : SourceWidthLegal s.params.width s.wid
      · exact .inl ⟨_, execSext_of_legal h⟩
      · exact .inr (.inl (execSext_of_not_legal h))
  · exact .inl ⟨_, exec_view hg s⟩

theorem step_of_decode {s : State} {i : Instr} (h : decode s.sel = .ok i) : step s = exec i s := by
  rw [step, h]

theorem step_of_reject {s : State} {e : DecodeError} (h : decode s.sel = .error e) :
    step s = raise s .selReserved := by
  rw [step, h]

/-- Everything a step can do. -/
theorem step_cases (s : State) :
    (∃ i, decode s.sel = .ok i ∧ step s = exec i s) ∨
      (∃ e, decode s.sel = .error e ∧ step s = raise s .selReserved) := by
  rcases h : decode s.sel with e | i
  · exact .inr ⟨e, rfl, step_of_reject h⟩
  · exact .inl ⟨i, rfl, step_of_decode h⟩

end Sys2Proof.Machine
end

