-- ==== Sys2Proof/Laws/Bitfield.lean ====
section
/-!
SUPPORT. The replies of the primitives, characterised on numbers: what a consumer can read of EXTRACT, SET and SEXT at
either container width, in one lemma each.
-/

namespace Sys2Proof.Machine

/-- `E` and `S` are the EXTRACT and the SET of the container width `W`. -/
def MatchingPair (p : BuildParams) (E S : Instr) (W : Nat) : Prop :=
  E = .extract ∧ S = .set ∧ W = p.width ∨ E = .extract32 ∧ S = .set32 ∧ W = 32

/-- The field `[off+wid-1:off]` of `a` is replaced by the low bits of `b`, in the low `W` bits. -/
def IsInserted (W : Nat) (a b : Nat) (off wid : Pos) (y : Nat) : Prop :=
  y < 2 ^ W ∧ ∀ k < W, y.testBit k =
    if off.toNat ≤ k ∧ k < off.toNat + wid.toNat then b.testBit (k - off.toNat) else a.testBit k

theorem IsInserted.unique {W a b : Nat} {off wid : Pos} {y z : Nat} (hy : IsInserted W a b off wid y)
    (hz : IsInserted W a b off wid z) : y = z := by
  apply Nat.eq_of_testBit_eq
  intro k
  by_cases hk : k < W
  · rw [hy.2 k hk, hz.2 k hk]
  · have hle := Nat.pow_le_pow_right (n := 2) (by omega) (Nat.le_of_not_lt hk)
    rw [Nat.testBit_lt_two_pow (Nat.lt_of_lt_of_le hy.1 hle), Nat.testBit_lt_two_pow (Nat.lt_of_lt_of_le hz.1 hle)]

theorem toNat_and_lowmask_lt {W : Nat} (b : BitVec W) (n : Nat) : (b &&& lowmask W n).toNat < 2 ^ n := by
  rw [BitVec.toNat_and, lowmask, BitVec.toNat_ofNat]
  have h1 : (2 ^ n - 1) % 2 ^ W ≤ 2 ^ n - 1 := Nat.mod_le _ _
  have h2 : b.toNat &&& (2 ^ n - 1) % 2 ^ W ≤ (2 ^ n - 1) % 2 ^ W := Nat.and_le_right
  have := Nat.two_pow_pos n
  omega

theorem getLsbD_and_lowmask {W : Nat} (b : BitVec W) (n k : Nat) (hk : k < n) :
    (b &&& lowmask W n).getLsbD k = b.getLsbD k := by
  rw [BitVec.getLsbD_and, getLsbD_lowmask]
  by_cases hW : k < W
  · simp [hk, hW]
  · simp [BitVec.getLsbD_of_ge b k (by omega)]

/-- What SET drives is the container with the field inserted. -/
theorem isInserted_set {W : Nat} (a b : BitVec W) (off wid : Pos) :
    IsInserted W a.toNat b.toNat off wid (insertField a (b &&& lowmask W wid.toNat) off wid).toNat := by
  refine ⟨BitVec.isLt _, fun k hk => ?_⟩
  rw [BitVec.testBit_toNat, getLsbD_insertField _ _ _ _ (toNat_and_lowmask_lt _ _) _ hk]
  split
  · rw [getLsbD_and_lowmask _ _ _ (by omega), BitVec.testBit_toNat]
  · rw [BitVec.testBit_toNat]

/-- What SET32 drives is the low half of the container with the field inserted. -/
theorem isInserted_set32 {W : Nat} (hW : 32 ≤ W) (a b : BitVec W) (off wid : Pos) (h : InRange 32 off wid) :
    IsInserted 32 a.toNat b.toNat off wid
      (zext W (insertField (a.setWidth 32) ((b &&& lowmask W wid.toNat).setWidth 32) off wid)).toNat := by
  rw [toNat_zext _ hW]
  refine ⟨BitVec.isLt _, fun k hk => ?_⟩
  have hlt : ((b &&& lowmask W wid.toNat).setWidth 32).toNat < 2 ^ wid.toNat := by
    rw [BitVec.toNat_setWidth]
    exact Nat.lt_of_le_of_lt (Nat.mod_le _ _) (toNat_and_lowmask_lt _ _)
  have h2 := h.2
  rw [BitVec.testBit_toNat, getLsbD_insertField _ _ _ _ hlt _ hk]
  split
  · rw [BitVec.getLsbD_setWidth, getLsbD_and_lowmask _ _ _ (by omega), BitVec.testBit_toNat,
      decide_eq_true (by omega), Bool.true_and]
  · rw [BitVec.getLsbD_setWidth, BitVec.testBit_toNat, decide_eq_true hk, Bool.true_and]

theorem reply_of_drive {i : Instr} {s : State} {v : BitVec s.params.width} (h : exec i s = drive s v) :
    reply i s = some v.toNat :=
  reply_of_answers h

theorem reply_of_raise {i : Instr} {s : State} {k : FaultKind} (h : exec i s = raise s k) : reply i s = none :=
  reply_of_refuses (h ▸ raise_refuses s k)

/-- When an EXTRACT replies, and with what. -/
theorem reply_extract_iff {E S : Instr} {W : Nat} {s : State} (h : MatchingPair s.params E S W) (f : Nat) :
    reply E s = some f ↔
      InRange W s.off s.wid ∧ f = s.a.toNat % 2 ^ W / 2 ^ s.off.toNat % 2 ^ s.wid.toNat := by
  have hw := width_ge s.params
  by_cases hr : InRange W s.off s.wid
  · have hlt : s.a.toNat % 2 ^ W / 2 ^ s.off.toNat % 2 ^ s.wid.toNat < 2 ^ s.wid.toNat :=
      Nat.mod_lt _ (Nat.two_pow_pos _)
    have := hr.2
    have key : reply E s = some (s.a.toNat % 2 ^ W / 2 ^ s.off.toNat % 2 ^ s.wid.toNat) := by
      rcases h with ⟨rfl, rfl, rfl⟩ | ⟨rfl, rfl, rfl⟩
      · rw [reply_of_drive (execExtract_of_inRange hr), toNat_zext _ (by omega), toNat_fieldOf,
          Nat.mod_eq_of_lt s.a.isLt]
      · rw [reply_of_drive (execExtract32_of_inRange hr), toNat_zext _ (by omega), toNat_fieldOf, State.container32,
          BitVec.toNat_setWidth]
    rw [key]
    simp [hr, eq_comm]
  · have key : reply E s = none := by
      rcases h with ⟨rfl, rfl, rfl⟩ | ⟨rfl, rfl, rfl⟩
      · exact reply_of_raise (execExtract_of_not_inRange hr)
      · exact reply_of_raise (execExtract32_of_not_inRange hr)
    simp [key, hr]

/-- When a SET replies, and with what. -/
theorem reply_set_iff {E S : Instr} {W : Nat} {s : State} (h : MatchingPair s.params E S W) (y : Nat) :
    reply S s = some y ↔
      InRange W s.off s.wid ∧ ¬ RefusesFieldValue s ∧ IsInserted W s.a.toNat s.b.toNat s.off s.wid y := by
  by_cases hr : InRange W s.off s.wid
  · by_cases hv : RefusesFieldValue s
    · have key : reply S s = none := by
        rcases h with ⟨rfl, rfl, rfl⟩ | ⟨rfl, rfl, rfl⟩
        · exact reply_of_raise (execSet_of_refused hr hv)
        · exact reply_of_raise (execSet32_of_refused hr hv)
      simp [key, hv]
    · obtain ⟨z, hz, hins⟩ : ∃ z, reply S s = some z ∧ IsInserted W s.a.toNat s.b.toNat s.off s.wid z := by
        rcases h with ⟨rfl, rfl, rfl⟩ | ⟨rfl, rfl, rfl⟩
        · exact ⟨_, reply_of_drive (execSet_of_accepted hr hv), isInserted_set _ _ _ _⟩
        · exact ⟨_, reply_of_drive (execSet32_of_accepted hr hv), isInserted_set32 (width_ge _) _ _ _ _ hr⟩
      rw [hz]
      constructor
      · intro h
        cases h
        exact ⟨hr, hv, hins⟩
      · exact fun h => congrArg some (hins.unique h.2.2)
  · have key : reply S s = none := by
      rcases h with ⟨rfl, rfl, rfl⟩ | ⟨rfl, rfl, rfl⟩
      · exact reply_of_raise (execSet_of_not_inRange hr)
      · exact reply_of_raise (execSet32_of_not_inRange hr)
    simp [key, hr]

/-- When SEXT replies, and with what: the low `wid` bits of `a`, and bit `wid - 1` above them. -/
theorem reply_sext_iff (s : State) (y : Nat) :
    reply .sext s = some y ↔
      SourceWidthLegal s.params.width s.wid ∧ y < 2 ^ s.params.width ∧ ∀ k < s.params.width, y.testBit k =
        if k < s.wid.toNat then s.a.toNat.testBit k else s.a.toNat.testBit (s.wid.toNat - 1) := by
  by_cases hl : SourceWidthLegal s.params.width s.wid
  · have hbits := getLsbD_sext_fieldOf s.a s.wid hl
    rw [reply_of_drive (execSext_of_legal hl)]
    constructor
    · intro h
      cases h
      exact ⟨hl, BitVec.isLt _, hbits⟩
    · rintro ⟨-, hlt, hy⟩
      refine congrArg some ?_
      have : sext s.params.width (fieldOf s.a 0 s.wid) = BitVec.ofNatLT y hlt :=
        BitVec.eq_of_getLsbD_eq fun k hk => by
          rw [hbits k hk, BitVec.getLsbD_ofNatLT, hy k hk]
          rfl
      rw [this, BitVec.toNat_ofNatLT]
  · rw [reply_of_raise (execSext_of_not_legal hl)]
    simp [hl]

end Sys2Proof.Machine
end

