-- ==== Sys2Proof/Laws/PerInstr.lean ====
section
/-!
SUPPORT. The per-instruction family RoundTrip: the selector the encoder gives an operation (spec/30_encoding.md R39)
decodes to that operation, and it carries the group code of the operation's group (R37).
-/

namespace Sys2Proof.Laws.RoundTrip

open Sys2Proof

/-- The group code of R37. -/
def groupNumber : Group → Nat
  | .prim => 0
  | .r => 1
  | .i => 2
  | .s => 3
  | .b => 4
  | .u => 5
  | .j => 6

/-- The operation's selector decodes to the operation and stands in the operation's group. -/
def Statement (i : Instr) : Prop := decode (encode i) = .ok i ∧ groupCode (encode i) = groupNumber i.group

theorem extract : Statement .extract := ⟨rfl, rfl⟩

theorem set : Statement .set := ⟨rfl, rfl⟩

theorem extract32 : Statement .extract32 := ⟨rfl, rfl⟩

theorem set32 : Statement .set32 := ⟨rfl, rfl⟩

theorem sext : Statement .sext := ⟨rfl, rfl⟩

theorem rOpcode : Statement .rOpcode := ⟨rfl, rfl⟩

theorem rRd : Statement .rRd := ⟨rfl, rfl⟩

theorem rFunct3 : Statement .rFunct3 := ⟨rfl, rfl⟩

theorem rRs1 : Statement .rRs1 := ⟨rfl, rfl⟩

theorem rRs2 : Statement .rRs2 := ⟨rfl, rfl⟩

theorem rFunct7 : Statement .rFunct7 := ⟨rfl, rfl⟩

theorem rFunction : Statement .rFunction := ⟨rfl, rfl⟩

theorem iOpcode : Statement .iOpcode := ⟨rfl, rfl⟩

theorem iRd : Statement .iRd := ⟨rfl, rfl⟩

theorem iFunct3 : Statement .iFunct3 := ⟨rfl, rfl⟩

theorem iRs1 : Statement .iRs1 := ⟨rfl, rfl⟩

theorem iShup5 : Statement .iShup5 := ⟨rfl, rfl⟩

theorem iShup6 : Statement .iShup6 := ⟨rfl, rfl⟩

theorem iImm : Statement .iImm := ⟨rfl, rfl⟩

theorem iImmExt : Statement .iImmExt := ⟨rfl, rfl⟩

theorem iShamt5 : Statement .iShamt5 := ⟨rfl, rfl⟩

theorem iShamt6 : Statement .iShamt6 := ⟨rfl, rfl⟩

theorem iShkind5 : Statement .iShkind5 := ⟨rfl, rfl⟩

theorem iShkind6 : Statement .iShkind6 := ⟨rfl, rfl⟩

theorem iCsr : Statement .iCsr := ⟨rfl, rfl⟩

theorem iZimm : Statement .iZimm := ⟨rfl, rfl⟩

theorem sOpcode : Statement .sOpcode := ⟨rfl, rfl⟩

theorem sFunct3 : Statement .sFunct3 := ⟨rfl, rfl⟩

theorem sRs1 : Statement .sRs1 := ⟨rfl, rfl⟩

theorem sRs2 : Statement .sRs2 := ⟨rfl, rfl⟩

theorem sImm : Statement .sImm := ⟨rfl, rfl⟩

theorem sImmExt : Statement .sImmExt := ⟨rfl, rfl⟩

theorem bOpcode : Statement .bOpcode := ⟨rfl, rfl⟩

theorem bFunct3 : Statement .bFunct3 := ⟨rfl, rfl⟩

theorem bRs1 : Statement .bRs1 := ⟨rfl, rfl⟩

theorem bRs2 : Statement .bRs2 := ⟨rfl, rfl⟩

theorem bImm : Statement .bImm := ⟨rfl, rfl⟩

theorem bImmExt : Statement .bImmExt := ⟨rfl, rfl⟩

theorem uOpcode : Statement .uOpcode := ⟨rfl, rfl⟩

theorem uRd : Statement .uRd := ⟨rfl, rfl⟩

theorem uImm : Statement .uImm := ⟨rfl, rfl⟩

theorem uImmExt : Statement .uImmExt := ⟨rfl, rfl⟩

theorem jOpcode : Statement .jOpcode := ⟨rfl, rfl⟩

theorem jRd : Statement .jRd := ⟨rfl, rfl⟩

theorem jImm : Statement .jImm := ⟨rfl, rfl⟩

theorem jImmExt : Statement .jImmExt := ⟨rfl, rfl⟩

end Sys2Proof.Laws.RoundTrip
end

