-- ==== Sys2Proof/Tests/Slice0.lean ====
section
/-!
SUPPORT. The model's own tests. Every expected value is one of spec/95_test_vectors.md, or a selector of the table of
spec/30_encoding.md R39 written out bit by bit. Each test asks for one response. The witnesses at the end show that the
hypotheses of the statements can be met.
-/

namespace Sys2Proof.Tests

open Sys2Proof Sys2Proof.Machine

/-! ### Helpers -/

/-- An instance of the default build at one width. -/
def at32 : State := .powerUp { xlen := .x32 }

/-- An instance of the default build at one width. -/
def at64 : State := .powerUp { xlen := .x64 }

/-- A build with `BF_SET_OVERSIZE = fault`. -/
def strict32 : State := .powerUp { xlen := .x32, setOversize := .fault }

/-- A build with `BF_SET_OVERSIZE = fault`. -/
def strict64 : State := .powerUp { xlen := .x64, setOversize := .fault }

/-- A build with `SHIFT_TAG_STRICT = false`. -/
def permissive : State := .powerUp { xlen := .x32, shiftTagStrict := false }

/-- The response to a request record `sel / a / b / off / wid`. -/
def ask (s : State) (sel a b off wid : Nat) : Option Response := respond s ⟨sel, a, b, off, wid⟩

/-- The responses of several view selectors to one word. -/
def views (s : State) (w : Nat) (sels : List Nat) : List (Option Response) := sels.map fun sel => ask s sel w 0 0 0

/-- A response with `fault = 0`. -/
def val (n : Nat) : Option Response := some { y := some n, fault := false, fcode := 0 }

/-- A fault response with this code. -/
def bad (code : Nat) : Option Response := some { y := none, fault := true, fcode := code }

/-! ### Decoding: every selector of R39, written out bit by bit -/

theorem test_decode_prim :
    [0b00000000, 0b00000001, 0b00000010, 0b00000011, 0b00000100].map (decodeTableWord 8) =
    [some .extract, some .set, some .extract32, some .set32, some .sext] := by
  decide

theorem test_decode_R :
    [0b00010000, 0b00010001, 0b00010010, 0b00010011, 0b00010100, 0b00010101, 0b00010110].map (decodeTableWord
      8) =
    [some .rOpcode, some .rRd, some .rFunct3, some .rRs1, some .rRs2, some .rFunct7, some .rFunction] := by
  decide

theorem test_decode_I :
    [0b00100000, 0b00100001, 0b00100010, 0b00100011, 0b00100110, 0b00100111, 0b00101000, 0b00101001,
      0b00101010, 0b00101011, 0b00101100, 0b00101101, 0b00101110, 0b00101111].map (decodeTableWord 8) =
    [some .iOpcode, some .iRd, some .iFunct3, some .iRs1, some .iShup5, some .iShup6, some .iImm, some
      .iImmExt, some .iShamt5, some .iShamt6, some .iShkind5, some .iShkind6, some .iCsr, some .iZimm] := by
  decide

theorem test_decode_S :
    [0b00110000, 0b00110010, 0b00110011, 0b00110100, 0b00111000, 0b00111001].map (decodeTableWord 8) =
    [some .sOpcode, some .sFunct3, some .sRs1, some .sRs2, some .sImm, some .sImmExt] := by
  decide

theorem test_decode_B :
    [0b01000000, 0b01000010, 0b01000011, 0b01000100, 0b01001000, 0b01001001].map (decodeTableWord 8) =
    [some .bOpcode, some .bFunct3, some .bRs1, some .bRs2, some .bImm, some .bImmExt] := by
  decide

theorem test_decode_U :
    [0b01010000, 0b01010001, 0b01011000, 0b01011001].map (decodeTableWord 8) =
    [some .uOpcode, some .uRd, some .uImm, some .uImmExt] := by
  decide

theorem test_decode_J :
    [0b01100000, 0b01100001, 0b01101000, 0b01101001].map (decodeTableWord 8) =
    [some .jOpcode, some .jRd, some .jImm, some .jImmExt] := by
  decide

/-- The reserved selectors of 95_test_vectors.md section 2.9. -/
theorem test_decode_reserved :
    [0x05, 0x17, 0x24, 0x25, 0x31, 0x41, 0x52, 0x6A, 0x70, 0xFF].map (decodeTableWord 8) = List.replicate 10 none := by
  decide

/-- The host's word runs the operation it names: I.RD of the word on port `a`, here 0. -/
theorem test_fetch_word : observeResult (step (State.reset.withFetchWord 8 0x21)) = val 0 := by decide

/-! ### Well-formedness: one ill-formed term for each check -/

theorem test_wf_request : Request.WellFormed { xlen := .x32 } ⟨0xFF, 0xFFFFFFFF, 0xFFFFFFFF, 127, 127⟩ = true := by decide

theorem test_wf_sel : Request.WellFormed { xlen := .x32 } ⟨0x100, 0, 0, 0, 0⟩ = false := by decide

theorem test_wf_a : Request.WellFormed { xlen := .x32 } ⟨0, 0x100000000, 0, 0, 0⟩ = false := by decide

theorem test_wf_b : Request.WellFormed { xlen := .x32 } ⟨0, 0, 0x100000000, 0, 0⟩ = false := by decide

theorem test_wf_off : Request.WellFormed { xlen := .x32 } ⟨0, 0, 0, 128, 0⟩ = false := by decide

theorem test_wf_wid : Request.WellFormed { xlen := .x32 } ⟨0, 0, 0, 0, 128⟩ = false := by decide

theorem test_wf_line_count : AsmLine.WellFormed { xlen := .x32 } ⟨.op .set, [1, 2, 3]⟩ = false := by decide

theorem test_wf_line_fit : AsmLine.WellFormed { xlen := .x64 } ⟨.op .rRd, [0x100000000]⟩ = false := by decide

theorem test_assemble_set : AsmLine.assemble ⟨.op .set, [0x13, 1, 7, 5]⟩ = ⟨0x01, 0x13, 1, 7, 5⟩ := by decide

theorem test_assemble_zext : AsmLine.assemble ⟨.zext, [0xDEAD80F0, 8]⟩ = ⟨0x00, 0xDEAD80F0, 0, 0, 8⟩ := by decide

/-! ### The primitives (95_test_vectors.md 2.1, 2.2) -/

theorem test_extract_top_bit : ask at32 0x00 0x80000000 0 31 1 = val 1 := by decide

theorem test_extract_past_end : (ask at32 0x00 0xFF 0 31 2, ask at64 0x00 0xFF 0 31 2) = (bad 2, val 0) := by decide

theorem test_extract_no_wrap : ask at64 0x00 0xFF 0 127 127 = bad 2 := by decide

theorem test_set_masks : ask at64 0x01 0 0xFF 30 3 = val 0x1C0000000 := by decide

theorem test_set_range_before_oversize :
    (ask strict32 0x01 0 0xFF 30 3, ask strict64 0x01 0 0xFF 30 3) = (bad 2, bad 3) := by decide

theorem test_extract32_ignores_upper : ask at64 0x02 0xFFFFFFFF00000063 0 0 32 = val 0x63 := by decide

theorem test_extract32_container : ask at64 0x02 0xFF 0 31 2 = bad 2 := by decide

theorem test_set32_clears_upper : ask at64 0x03 0xFFFFFFFF00000063 1 31 1 = val 0x80000063 := by decide

theorem test_set32_oversize_whole_b : ask strict64 0x03 0 0x100000000 0 32 = bad 3 := by decide

theorem test_sext_widths : (ask at32 0x04 0x800 0 0 12, ask at64 0x04 0x800 0 0 12) =
    (val 0xFFFFF800, val 0xFFFFFFFFFFFFF800) := by decide

theorem test_sext_ignores_above : (ask at32 0x04 0xF7F 0 0 8, ask at32 0x04 5 0 0 33) = (val 0x7F, bad 2) := by decide

/-! ### The views (95_test_vectors.md 2.3 to 2.8) -/

theorem test_r_view : views at64 0xABCD0000407352B3 [0x10, 0x11, 0x12, 0x13, 0x14, 0x15, 0x16] =
    [0x33, 5, 5, 6, 7, 0x20, 0x105].map val := by decide

theorem test_i_view : views at32 0x3002D0F3 [0x20, 0x21, 0x22, 0x23, 0x28, 0x29, 0x2E, 0x2F] =
    [0x73, 1, 5, 5, 0x300, 0x300, 0x300, 5].map val := by decide

theorem test_i_imm_ext : (views at32 0x80000013 [0x28, 0x29], views at64 0x80000013 [0x28, 0x29]) =
    ([val 0x800, val 0xFFFFF800], [val 0x800, val 0xFFFFFFFFFFFFF800]) := by decide

theorem test_i_shift : views at64 0x42315093 [0x2A, 0x2B, 0x26, 0x27, 0x2C, 0x2D] =
    [3, 35, 0x21, 0x10, 2, 1].map val := by decide

theorem test_i_shift_permissive : views permissive 0xFFFFF097 [0x2C, 0x2D] = [1, 1].map val := by decide

theorem test_i_shift_bit9 : (views at32 0x20315093 [0x2C, 0x2D], views permissive 0x20315093 [0x2C, 0x2D]) =
    ([2, 2].map val, [2, 2].map val) := by decide

theorem test_s_view : views at32 0xFE20AE23 [0x30, 0x32, 0x33, 0x34, 0x38, 0x39] =
    [0x23, 2, 1, 2, 0xFFC, 0xFFFFFFFC].map val := by decide

theorem test_s_imm_low : views at64 0x00000FA3 [0x38, 0x39] = [0x1F, 0x1F].map val := by decide

theorem test_b_view : views at64 0xFE208EE3 [0x40, 0x42, 0x43, 0x44, 0x48, 0x49] =
    [0x63, 0, 1, 2, 0x1FFC, 0xFFFFFFFFFFFFFFFC].map val := by decide

theorem test_b_imm_bit11 : views at32 0x00000080 [0x48, 0x49] = [0x800, 0x800].map val := by decide

theorem test_u_view : views at64 0xFFFFF097 [0x50, 0x51, 0x58, 0x59] =
    [0x17, 1, 0xFFFFF000, 0xFFFFFFFFFFFFF000].map val := by decide

theorem test_u_at_32 : views at32 0xFFFFF097 [0x58, 0x59] = [0xFFFFF000, 0xFFFFF000].map val := by decide

theorem test_j_view : views at32 0xFFDFF06F [0x60, 0x61, 0x68, 0x69] =
    [0x6F, 0, 0x1FFFFC, 0xFFFFFFFC].map val := by decide

theorem test_j_imm_bit11 : views at64 0x001000EF [0x68, 0x69] = [0x800, 0x800].map val := by decide

/-! ### Faults and the consumer -/

/-- A reserved selector is refused before its zero width is looked at (95_test_vectors.md 2.9). -/
theorem test_reserved_first : ask at32 0x05 1 0 0 0 = bad 1 := by decide

/-- The word of "ADDI x1, x2, 10" from its bytes, lowest address first (R27). -/
theorem test_word_of_bytes : wordOfBytes 0x93 0x00 0xA1 0x00 = 0x00A10093#32 := by decide

/-! ### Witnesses: the hypotheses of the statements can be met -/

/-- A state with these input ports, at 64 bits, masking. -/
def st (sel : Selector) (a b : Nat) (off wid : Nat) : State := at64.drive ⟨sel.toNat, a, b, off, wid⟩

/-- The same with `BF_SET_OVERSIZE = fault`. -/
def stFault (sel : Selector) (a b : Nat) (off wid : Nat) : State := strict64.drive ⟨sel.toNat, a, b, off, wid⟩

theorem witness_StepRunsDecoded :
    decode (st 0x69 0 0 0 0).sel = .ok .jImmExt ∧ decodeTableWord 8 0x69 = some .jImmExt := ⟨rfl, rfl⟩

/-- Both ends of one of R40's ranges, and the last reserved value. -/
theorem witness_ReservedSelectorsRefused :
    Reserved (st 0x05 0 0 0 0).sel ∧ Reserved (st 0x0F 0 0 0 0).sel ∧ Reserved (st 0xFF 0 0 0 0).sel := by
  refine ⟨?_, ?_, ?_⟩ <;>
  · unfold Reserved ReservedValue
    decide

/-- Two instances with different histories and the same request. -/
theorem witness_ResponseDependsOnlyOnRequest :
    ∃ s t : State, s ≠ t ∧ s.params = t.params ∧ s.sel = t.sel ∧ s.a.toNat = t.a.toNat ∧ s.b.toNat = t.b.toNat ∧
      s.off = t.off ∧ s.wid = t.wid :=
  ⟨st 0x10 5 0 0 0, (st 0x10 5 0 0 0).answer 7, by decide⟩

/-- A view: every port but the low half of `a` differs. -/
theorem witness_UnreadPortsHaveNoEffect_view :
    (st 0x21 0x80 1 2 3).params = (st 0x00 0xFFFFFFFF00000080 9 8 7).params ∧
      ∀ o ∈ Instr.iRd.operands, operandAgrees (st 0x21 0x80 1 2 3) (st 0x00 0xFFFFFFFF00000080 9 8 7) o :=
  ⟨rfl, fun o ho => by
    rw [show o = .w by simpa [Instr.operands] using ho]
    unfold operandAgrees
    decide⟩

/-- SEXT reads `a` and `wid`; `b` and `off` differ. -/
theorem witness_UnreadPortsHaveNoEffect_sext :
    ∀ o ∈ Instr.sext.operands, operandAgrees (st 0x04 0x800 1 2 12) (st 0x04 0x800 9 8 12) o := by
  intro o ho
  rcases (by simpa [Instr.operands] using ho : o = .a ∨ o = .wid) with rfl | rfl
  · rfl
  · rfl

/-- EXTRACT32 reads `a[31:0]`, `off` and `wid`; the upper half of `a`, and `b`, differ. -/
theorem witness_UnreadPortsHaveNoEffect_extract32 :
    ∀ o ∈ Instr.extract32.operands, operandAgrees (st 0x02 0x12345678 1 4 12) (st 0x02 0xFFFFFFFF12345678 9 4 12) o := by
  intro o ho
  rcases (by simpa [Instr.operands] using ho : o = .a32 ∨ o = .off ∨ o = .wid) with rfl | rfl | rfl <;> rfl

/-- SET32 reads `b` as well; the upper half of `a` differs. -/
theorem witness_UnreadPortsHaveNoEffect_set32 :
    ∀ o ∈ Instr.set32.operands, operandAgrees (st 0x03 0x63 1 31 1) (st 0x03 0xFFFFFFFF00000063 1 31 1) o := by
  intro o ho
  rcases (by simpa [Instr.operands] using ho : o = .a32 ∨ o = .b ∨ o = .off ∨ o = .wid) with rfl | rfl | rfl | rfl <;> rfl

theorem witness_BuildParametersFixed : ∃ t, Host.Core.run Sys2Proof.core 1 (st 0x11 0 0 0 0) = .next t := ⟨_, rfl⟩

theorem witness_PowerUpAnswersAsAnyInstance :
    Request.WellFormed (st 0x10 5 0 0 0).params ⟨0xFF, 2 ^ 64 - 1, 2 ^ 64 - 1, 127, 127⟩ = true := by decide

theorem witness_StepKeepsInv :
    (st 0x00 0 0 0 0).Inv ∧ ∃ t, step (st 0x00 0 0 0 0) = .next t :=
  ⟨⟨by decide, by decide⟩, _, rfl⟩

/-- EXTRACT of a field of no width. -/
theorem witness_FaultIsPrecise : ∃ t, step (st 0x00 0 0 0 0) = .next t ∧ t.fault = true := ⟨_, rfl, rfl⟩

theorem witness_SequencesDoNotInterfere :
    (st 0x10 5 0 0 0).params = at64.params ∧ (respondAll at64 [⟨0x10, 5, 0, 0, 0⟩, ⟨0x05, 0, 0, 0, 0⟩]).length = 2 := by
  decide

/-- A run none of whose requests faults is final (R155). -/
theorem test_consumerRun_final :
    (∃ t, consumerRun at64 [⟨0x10, 5, 0, 0, 0⟩, ⟨0x11, 5, 0, 0, 0⟩] = .next t) ∧
      ∀ x ∈ respondAll at64 [⟨0x10, 5, 0, 0, 0⟩, ⟨0x11, 5, 0, 0, 0⟩], x.fault = false :=
  ⟨⟨_, rfl⟩, by decide⟩

/-- A run with a RANGE fault and then a reserved selector is never final, and ends with the first one's code (R155; log
entry 15). -/
theorem test_consumerRun_fault :
    let rs : List Request := [⟨0x10, 5, 0, 0, 0⟩, ⟨0x00, 0, 0, 0, 0⟩, ⟨0x05, 0, 0, 0, 0⟩]
    consumerRun at64 rs = .fault (.reachedConsumer 0b10#2) ∧
      (((respondAll at64 rs).find? (·.fault)).map (·.fcode)) = some (0b10#2).toNat :=
  ⟨rfl, by decide⟩

/-- A build that masks, with a field value that does not fit, for SET and for SET32. -/
theorem witness_FaultsExactly :
    (let s := st 0x01 0 16 0 4; s.params.setOversize = .mask ∧ s.sel = 0x01#8 ∧ 2 ^ s.wid.toNat ≤ s.b.toNat) ∧
    (let s := st 0x03 0 16 28 4; s.params.setOversize = .mask ∧ s.sel = 0x03#8 ∧ 2 ^ s.wid.toNat ≤ s.b.toNat) := by
  decide

/-- EXTRACT: the last bit of the container is in range, one past it is not, and no width is not. -/
theorem witness_ExtractRule :
    (let s := st 0x00 0 0 63 1; InRange s.params.width s.off s.wid) ∧
    (let s := st 0x00 0 0 63 2; ¬ InRange s.params.width s.off s.wid) ∧
    (let s := st 0x00 0 0 0 0; ¬ InRange s.params.width s.off s.wid) := by
  unfold InRange
  decide

/-- SET: the widest value that fits, one more than that, and a field past the end. -/
theorem witness_SetRule :
    (let s := stFault 0x01 0 15 60 4; InRange s.params.width s.off s.wid ∧ ¬ RefusesFieldValue s) ∧
    (let s := stFault 0x01 0 16 60 4; InRange s.params.width s.off s.wid ∧ RefusesFieldValue s) ∧
    (let s := st 0x01 0 16 60 4; InRange s.params.width s.off s.wid ∧ ¬ RefusesFieldValue s) ∧
    (let s := st 0x01 0 0 61 4; ¬ InRange s.params.width s.off s.wid) := by
  unfold InRange RefusesFieldValue
  decide

theorem witness_Extract32Rule :
    (let s := st 0x02 0 0 31 1; InRange 32 s.off s.wid) ∧ (let s := st 0x02 0 0 31 2; ¬ InRange 32 s.off s.wid) ∧
    at32.params.xlen = .x32 := by
  unfold InRange
  decide

theorem witness_Set32Rule :
    (let s := stFault 0x03 0 15 28 4; InRange 32 s.off s.wid ∧ ¬ RefusesFieldValue s) ∧
    (let s := stFault 0x03 0 16 28 4; InRange 32 s.off s.wid ∧ RefusesFieldValue s) ∧
    (let s := st 0x03 0 0 29 4; ¬ InRange 32 s.off s.wid) ∧ at32.params.xlen = .x32 := by
  unfold InRange RefusesFieldValue
  decide

/-- Both settings of the build, at the largest value that fits and one more. -/
theorem witness_OversizeRule :
    (let s := st 0x01 0 16 0 4; InRange 64 s.off s.wid ∧ s.params.setOversize = .mask) ∧
    (let s := stFault 0x03 0 16 28 4; InRange 32 s.off s.wid ∧ s.params.setOversize = .fault ∧
      2 ^ s.wid.toNat ≤ s.b.toNat) ∧
    (let s := stFault 0x03 0 15 28 4; InRange 32 s.off s.wid ∧ s.params.setOversize = .fault ∧
      s.b.toNat < 2 ^ s.wid.toNat) := by
  unfold InRange
  decide

/-- The replies the laws start from, at both widths, and two fields that touch without overlapping (the instances of
95_test_vectors.md 2.1). -/
theorem witness_BitfieldLaws :
    reply .set (st 0x01 0x12345678 0xAB 8 8) = some 0x1234AB78 ∧
    reply .extract (st 0x00 0x12345678 0 4 12) = some 0x567 ∧
    reply .set32 (st 0x03 0x63 1 31 1) = some 0x80000063 ∧
    reply .extract32 (st 0x02 0xFE208EE3 0 25 7) = some 0x7F ∧
    (let s := st 0x01 0x12345678 0xAB 8 8; s.off.toNat + s.wid.toNat ≤ (16 : Pos).toNat ∧
      reply .set { s with b := 0xCD, off := 16, wid := 8 } = some 0x12CD5678) := by
  decide

/-- SEXT: the widths 1 and 64 are legal, 0 and 65 are not. -/
theorem witness_SextRule :
    (let s := st 0x04 0 0 0 1; SourceWidthLegal s.params.width s.wid) ∧
    (let s := st 0x04 0 0 0 64; SourceWidthLegal s.params.width s.wid) ∧
    (let s := st 0x04 0 0 0 0; ¬ SourceWidthLegal s.params.width s.wid) ∧
    (let s := st 0x04 0 0 0 65; ¬ SourceWidthLegal s.params.width s.wid) := by
  unfold SourceWidthLegal
  decide

/-- A sign extension, with a wider second width. -/
theorem witness_SextLaws :
    reply .sext (st 0x04 0x80 0 0 8) = some 0xFFFFFFFFFFFFFF80 ∧ (st 0x04 0x80 0 0 8).wid.toNat ≤ (16 : Pos).toNat ∧
      (16 : Pos).toNat ≤ (st 0x04 0x80 0 0 8).params.width := by decide

/-- ZEXT at the width of the build, one past it, and 0. -/
theorem witness_ZextIsExtractAtZero :
    AsmLine.WellFormed at64.params ⟨.zext, [2 ^ 64 - 1, 64]⟩ = true ∧
    AsmLine.WellFormed at64.params ⟨.zext, [5, 65]⟩ = true ∧ AsmLine.WellFormed at64.params ⟨.zext, [5, 0]⟩ = true := by
  decide

theorem witness_UView : at32.params.xlen = .x32 := rfl

theorem witness_ViewsAreTotal : Instr.jImmExt.group ≠ .prim := by decide

/-- The greatest value of a 5-bit field, and of the opcode and funct3. -/
theorem witness_FieldRoundTrip :
    (st 0x03 0xFFFFFFFF 31 0 0).b.toNat < 2 ^ (5 : Pos).toNat ∧ (st 0x03 0 127 0 0).b.toNat < 2 ^ (7 : Pos).toNat ∧
    (st 0x03 0 7 0 0).b.toNat < 2 ^ (3 : Pos).toNat := by decide

/-- The most negative and the greatest branch offset. -/
theorem witness_BranchOffsetScatter :
    (0x1000 < 2 ^ 13 ∧ 0x1000 % 2 = 0) ∧ (0xFFE < 2 ^ 13 ∧ 0xFFE % 2 = 0) := by decide

end Sys2Proof.Tests
end

section
/-!
PROOFS of the state rules (spec/10_state.md): what a step answers, the consistency of the response ports, and on which
ports a response depends.
-/

namespace Sys2Proof.Machine

/-! ### What a step answers -/

/-- An operation answers, or refuses with a fault kind the build has. -/
theorem exec_answer_or_refuse (i : Instr) (s : State) :
    (∃ v, exec i s = .next (s.answer v)) ∨
      ∃ k, exec i s = .next (s.refuse k) ∧ (k = .oversize → s.params.setOversize = .fault) := by
  rcases exec_cases i s with hdrive | hrange | ⟨hoversize, hbuild⟩
  · exact .inl hdrive
  · exact .inr ⟨.range, hrange, nofun⟩
  · exact .inr ⟨.oversize, hoversize, fun _ => hbuild⟩

/-- A step answers, or refuses with a fault kind the build has. -/
theorem step_answer_or_refuse (s : State) :
    (∃ v, step s = .next (s.answer v)) ∨
      ∃ k, step s = .next (s.refuse k) ∧ (k = .oversize → s.params.setOversize = .fault) := by
  rcases step_cases s with ⟨i, -, hexec⟩ | ⟨e, -, hraise⟩
  · rw [hexec]
    exact exec_answer_or_refuse i s
  · exact .inr ⟨.selReserved, hraise, nofun⟩

/-! ### The response ports stay consistent -/

theorem faultCode_ne_zero (k : FaultKind) : faultCode k ≠ 0#2 := by
  cases k <;> decide

theorem faultCode_eq_oversize_iff (k : FaultKind) : faultCode k = 0b11#2 ↔ k = .oversize := by
  cases k <;> decide

theorem State.powerUp_inv (p : BuildParams) : (State.powerUp p).Inv where
  faultIffCode := by simp [State.powerUp]
  oversizeOnlyIfBuilt := by simp [State.powerUp]

theorem State.answer_inv (s : State) (v : BitVec s.params.width) : (s.answer v).Inv where
  faultIffCode := by simp
  oversizeOnlyIfBuilt := by simp

theorem State.refuse_inv {s : State} {k : FaultKind} (hbuild : k = .oversize → s.params.setOversize = .fault) :
    (s.refuse k).Inv where
  faultIffCode := by simp [faultCode_ne_zero]
  oversizeOnlyIfBuilt := by simpa [faultCode_eq_oversize_iff] using hbuild

/-- Driving a request leaves the response ports and the build as they are. -/
theorem State.Inv.drive {s : State} (h : s.Inv) (r : Request) : (s.drive r).Inv where
  faultIffCode := h.faultIffCode
  oversizeOnlyIfBuilt := h.oversizeOnlyIfBuilt

/-- A step's response is consistent whatever the response ports held before. -/
theorem step_inv {s t : State} (h : step s = .next t) : t.Inv := by
  rcases step_answer_or_refuse s with ⟨v, hstep⟩ | ⟨k, hstep, hbuild⟩
  · obtain rfl : s.answer v = t := Host.Outcome.next.inj (hstep.symm.trans h)
    exact s.answer_inv v
  · obtain rfl : s.refuse k = t := Host.Outcome.next.inj (hstep.symm.trans h)
    exact State.refuse_inv hbuild

/-- Settles O11: a step either answers or refuses with a fault the build has, and driving touches no response port. -/
theorem stepKeepsInv : Obligations.StepKeepsInv :=
  fun _ h => ⟨fun _ => step_inv, h.drive⟩

/-- Settles O10: both `fault` and `fcode` are 0 at power-up. -/
theorem powerUpInv : Obligations.PowerUpInv :=
  ⟨State.powerUp_inv, State.powerUp_inv _⟩

/-! ### What a response depends on -/

/-- The response of a refused request names the fault kind alone: not the drawn `y` (R152). -/
theorem observeResult_raise (s : State) (k : FaultKind) :
    observeResult (raise s k) = some { y := none, fault := true, fcode := (faultCode k).toNat } := rfl

theorem observeResult_drive (s : State) (v : BitVec s.params.width) :
    observeResult (drive s v) = some { y := some v.toNat, fault := false, fcode := 0 } := rfl

theorem observeResult_drive_congr {s t : State} {v : BitVec s.params.width} {w : BitVec t.params.width}
    (h : v.toNat = w.toNat) : observeResult (drive s v) = observeResult (drive t w) := by
  rw [observeResult_drive, observeResult_drive, h]

/-- Two guarded operations respond alike when their checks agree and their rests respond alike. -/
theorem observeResult_raiseIf_congr {bad bad' : Bool} {k : FaultKind} {s t : State} {rest rest' : Result}
    (hbad : bad = bad') (hrest : observeResult rest = observeResult rest') :
    observeResult (raiseIf bad k s rest) = observeResult (raiseIf bad' k t rest') := by
  subst hbad
  cases bad
  · exact hrest
  · rfl

theorem container32_eq_of_agrees {s t : State} (h : operandAgrees s t .a32) : s.container32 = t.container32 :=
  BitVec.eq_of_toNat_eq (by simpa [State.container32, operandAgrees] using h)

theorem word_eq_of_agrees {s t : State} (h : operandAgrees s t .w) : s.word = t.word :=
  container32_eq_of_agrees h

theorem operands_of_view {i : Instr} (hi : i.group ≠ .prim) : i.operands = [.w] := by
  cases i with
  | extract | set | extract32 | set32 | sext => exact absurd rfl hi
  | _ => rfl

/-- A view accessor's response depends on the build and the word alone. -/
theorem observeResult_exec_view_congr {i : Instr} (hi : i.group ≠ .prim) {s t : State} (hp : s.params = t.params)
    (hw : s.word = t.word) : observeResult (exec i s) = observeResult (exec i t) := by
  rw [exec_view hi, exec_view hi, hw]
  exact observeResult_drive_congr (congrArg (fun p => (viewValue p t.word i).toNat) hp)

/-- A primitive's response depends on the build and the operands it reads: its guards and the value it drives are
functions of these. -/
theorem observeResult_exec_prim_congr {i : Instr} (hi : i.group = .prim) {s t : State} (hp : s.params = t.params)
    (h : ∀ o ∈ i.operands, operandAgrees s t o) : observeResult (exec i s) = observeResult (exec i t) := by
  have hc (ho : .a32 ∈ i.operands) : s.container32 = t.container32 := container32_eq_of_agrees (h _ ho)
  obtain ⟨p, _, a, b, off, wid, _, _, _, _⟩ := s
  obtain ⟨_, _, a', b', off', wid', _, _, _, _⟩ := t
  obtain rfl : p = _ := hp
  cases i with
  | extract =>
    obtain ⟨rfl, rfl, rfl⟩ : a = a' ∧ off = off' ∧ wid = wid' := by
      simpa [Instr.operands, operandAgrees, BitVec.toNat_inj] using h
    exact observeResult_raiseIf_congr rfl (observeResult_drive_congr rfl)
  | set =>
    obtain ⟨rfl, rfl, rfl, rfl⟩ : a = a' ∧ b = b' ∧ off = off' ∧ wid = wid' := by
      simpa [Instr.operands, operandAgrees, BitVec.toNat_inj] using h
    exact observeResult_raiseIf_congr rfl (observeResult_raiseIf_congr rfl (observeResult_drive_congr rfl))
  | extract32 =>
    obtain ⟨-, rfl, rfl⟩ : _ ∧ off = off' ∧ wid = wid' := by
      simpa [Instr.operands, operandAgrees] using h
    exact observeResult_raiseIf_congr rfl (observeResult_drive_congr (by rw [hc (by decide)]))
  | set32 =>
    obtain ⟨-, rfl, rfl, rfl⟩ : _ ∧ b = b' ∧ off = off' ∧ wid = wid' := by
      simpa [Instr.operands, operandAgrees, BitVec.toNat_inj] using h
    exact observeResult_raiseIf_congr rfl
      (observeResult_raiseIf_congr rfl (observeResult_drive_congr (by rw [hc (by decide)])))
  | sext =>
    obtain ⟨rfl, rfl⟩ : a = a' ∧ wid = wid' := by
      simpa [Instr.operands, operandAgrees, BitVec.toNat_inj] using h
    exact observeResult_raiseIf_congr rfl (observeResult_drive_congr rfl)
  | _ => exact nomatch hi

/-- An operation's response depends on the build and on the operands it reads (R13). -/
theorem observeResult_exec_congr {i : Instr} {s t : State} (hp : s.params = t.params)
    (h : ∀ o ∈ i.operands, operandAgrees s t o) : observeResult (exec i s) = observeResult (exec i t) := by
  by_cases hi : i.group = .prim
  · exact observeResult_exec_prim_congr hi hp h
  · exact observeResult_exec_view_congr hi hp (word_eq_of_agrees (h .w (by simp [operands_of_view hi])))

/-- Settles O7: a view drives a function of the word, a primitive's guards and value are functions of its operands. -/
theorem unreadPortsHaveNoEffect : Obligations.UnreadPortsHaveNoEffect :=
  ⟨fun _ _ _ => observeResult_exec_congr, fun _ => operands_of_view, rfl, rfl, rfl, rfl, rfl⟩

theorem operandAgrees_of_ports {s t : State} (ha : s.a.toNat = t.a.toNat) (hb : s.b.toNat = t.b.toNat)
    (hoff : s.off = t.off) (hwid : s.wid = t.wid) (o : Operand) : operandAgrees s t o := by
  cases o with
  | a => exact ha
  | a32 | w => exact congrArg (· % 2 ^ 32) ha
  | b => exact hb
  | off => exact hoff
  | wid => exact hwid

theorem observeResult_step_isSome (s : State) : (observeResult (step s)).isSome = true := by
  rcases step_answer_or_refuse s with ⟨v, hstep⟩ | ⟨k, hstep, -⟩
  all_goals
    rw [hstep]
    rfl

/-- Settles O6: equal selectors decode alike, and equal ports agree on every operand the operation reads. -/
theorem responseDependsOnlyOnRequest : Obligations.ResponseDependsOnlyOnRequest := by
  intro s t hp hsel ha hb hoff hwid
  refine ⟨?_, observeResult_step_isSome s⟩
  rcases step_cases s with ⟨i, hdec, hstep⟩ | ⟨e, hdec, hstep⟩
  · rw [hstep, step_of_decode (hsel ▸ hdec)]
    exact observeResult_exec_congr hp fun o _ => operandAgrees_of_ports ha hb hoff hwid o
  · rw [hstep, step_of_reject (hsel ▸ hdec), observeResult_raise, observeResult_raise]

end Sys2Proof.Machine
end

section
/-!
PROOFS of the memory rules (spec/20_memory.md): requests in a sequence do not disturb each other, and the byte order of
a word a consumer fetched.
-/

namespace Sys2Proof.Machine

/-! ### Requests in sequence -/

/-- A step always gives a next state, of the same build. -/
theorem step_next_params (s : State) : ∃ t, step s = .next t ∧ t.params = s.params := by
  rcases step_answer_or_refuse s with ⟨v, hstep⟩ | ⟨k, hstep, -⟩
  · exact ⟨_, hstep, s.answer_params v⟩
  · exact ⟨_, hstep, s.refuse_params k⟩

/-- Two instances of one build give the same response to a request, since driving it makes their input ports equal. -/
theorem respond_congr {s t : State} (hp : s.params = t.params) (r : Request) : respond s r = respond t r :=
  (responseDependsOnlyOnRequest (s.drive r) (t.drive r) hp rfl (by simp [hp]) (by simp [hp]) rfl rfl).1

/-- The first request of a list gets the response it gets alone, and the rest go to an instance of the same build. -/
theorem respondAll_cons (s : State) (r : Request) (rs : List Request) :
    ∃ x t, respond s r = some x ∧ t.params = s.params ∧ respondAll s (r :: rs) = x :: respondAll t rs := by
  obtain ⟨t, hstep, hp⟩ := step_next_params (s.drive r)
  exact ⟨t.observe, t, by rw [respond, hstep, observeResult], hp, by rw [respondAll, hstep]⟩

/-- Each request of a list gets the response it gets alone on any instance of the build. -/
theorem respondAll_eq_filterMap {s t : State} (hp : s.params = t.params) (rs : List Request) :
    respondAll s rs = rs.filterMap (respond t) := by
  induction rs generalizing s with
  | nil => rfl
  | cons r rs ih =>
    obtain ⟨x, s', hx, hp', hall⟩ := respondAll_cons s r rs
    rw [hall, ih (hp'.trans hp), List.filterMap_cons_some (respond_congr hp r ▸ hx)]

/-- No response is lost. -/
theorem length_respondAll (s : State) (rs : List Request) : (respondAll s rs).length = rs.length := by
  induction rs generalizing s with
  | nil => rfl
  | cons r rs ih =>
    obtain ⟨x, s', -, -, hall⟩ := respondAll_cons s r rs
    rw [hall, List.length_cons, List.length_cons, ih]

/-- Settles O13: by induction on the list, since a step keeps the build and a response depends on the build and the
request alone. -/
theorem sequencesDoNotInterfere : Obligations.SequencesDoNotInterfere :=
  fun s _ rs hp => ⟨respondAll_eq_filterMap hp rs, length_respondAll s rs⟩

/-! ### The word of four fetched bytes -/

/-- Settles O41: the word appends the bytes with the lowest-addressed one last, so each byte counts `2 ^ 8` times as
much as the one before it. -/
theorem wordOfBytesLittleEndian : Obligations.WordOfBytesLittleEndian := by
  intro b0 b1 b2 b3
  rw [wordOfBytes, toNat_append_eq_add, toNat_append_eq_add, toNat_append_eq_add]
  omega

end Sys2Proof.Machine
end

section
/-!
PROOFS of the encoding rules (spec/30_encoding.md): the decoder against the selector table and the reserved values, what
a step runs, the pseudo-operation ZEXT, and what every format view has in common.
-/

namespace Sys2Proof.Machine

/-! ### The decoder and the selector table -/

theorem groupCode_eq_div (sel : Selector) : groupCode sel = sel.toNat / 16 := by
  rw [groupCode, toNat_extractLsb, bits]
  omega

theorem accessorCode_eq_mod (sel : Selector) : accessorCode sel = sel.toNat % 16 := by
  rw [accessorCode, toNat_extractLsb, bits]
  omega

/-- The table's selector of an operation is made of the codes the decoder reads it from (R37). -/
theorem toNat_encode_of_decodeCodes {g a : Nat} {i : Instr} (h : decodeCodes g a = some i) :
    (encode i).toNat = 16 * g + a := by
  -- Group by group, the rows of the decoder are rows of the table.
  unfold decodeCodes at h
  split at h
  case h_8 => cases h
  all_goals
    simp only [decodePrim, decodeR, decodeI, decodeS, decodeB, decodeU, decodeJ] at h
    split at h <;> cases h <;> rfl

/-- Two codes name no operation exactly when the selector made of them is reserved (R40). -/
theorem decodeCodes_eq_none_iff {g a : Nat} (hg : g < 16) (ha : a < 16) :
    decodeCodes g a = none ↔ ReservedValue (16 * g + a) := by
  unfold decodeCodes ReservedValue
  -- In each group the codes with a meaning lie outside R40's ranges and the rest inside; from group 7 on all are inside
  split
  case h_8 =>
    simp only [imp_false, true_iff] at *
    omega
  all_goals
    simp only [decodePrim, decodeR, decodeI, decodeS, decodeB, decodeU, decodeJ]
    split <;> simp only [imp_false, reduceCtorEq, false_iff, true_iff] at * <;> omega

theorem decode_eq_ok_iff_decodeCodes (sel : Selector) (i : Instr) :
    decode sel = .ok i ↔ decodeCodes (groupCode sel) (accessorCode sel) = some i := by
  rw [decode]
  split <;> simp [*]

theorem decode_eq_error_iff_decodeCodes (sel : Selector) :
    (∃ e, decode sel = .error e) ↔ decodeCodes (groupCode sel) (accessorCode sel) = none := by
  rw [decode]
  split <;> simp [*]

/-- The per-operation family as one statement. -/
theorem roundTrip_statement (i : Instr) : Laws.RoundTrip.Statement i := by
  cases i <;> exact ⟨rfl, rfl⟩

theorem decode_encode (i : Instr) : decode (encode i) = .ok i := (roundTrip_statement i).1

/-- A selector decodes to the operation whose selector it is, and to no other. -/
theorem decode_eq_ok_iff (sel : Selector) (i : Instr) : decode sel = .ok i ↔ sel = encode i := by
  constructor
  · intro h
    have hcodes := toNat_encode_of_decodeCodes ((decode_eq_ok_iff_decodeCodes sel i).1 h)
    rw [groupCode_eq_div, accessorCode_eq_mod, Nat.div_add_mod] at hcodes
    exact (BitVec.eq_of_toNat_eq hcodes).symm
  · rintro rfl
    exact decode_encode i

theorem encode_injective : Function.Injective encode := by
  intro i j h
  have hj : decode (encode i) = .ok j := (decode_eq_ok_iff _ _).2 h
  exact Except.ok.inj ((decode_encode i).symm.trans hj)

/-- The decoder rejects exactly the selectors R40 lists. -/
theorem decode_eq_error_iff_reserved (sel : Selector) : (∃ e, decode sel = .error e) ↔ Reserved sel := by
  have hlt := sel.isLt
  rw [decode_eq_error_iff_decodeCodes, groupCode_eq_div, accessorCode_eq_mod,
    decodeCodes_eq_none_iff (by omega) (Nat.mod_lt _ (by decide)), Nat.div_add_mod, Reserved]

theorem toNat_encode_div (i : Instr) : (encode i).toNat / 16 = Laws.RoundTrip.groupNumber i.group :=
  (groupCode_eq_div _).symm.trans (roundTrip_statement i).2

/-- Settles O3: the decoder's codes are the halves of the table's selector, and the codes it leaves out are R40's. -/
theorem decodeEncodeAgree : Obligations.DecodeEncodeAgree :=
  ⟨decode_eq_ok_iff, fun _ _ h => encode_injective h, decode_eq_error_iff_reserved, toNat_encode_div⟩

/-! ### Reserved selectors -/

theorem encode_not_reserved (i : Instr) : ¬ Reserved (encode i) := by
  rw [← decode_eq_error_iff_reserved, decode_encode]
  exact nofun

/-- A reserved selector is refused, whatever stands on the other ports. -/
theorem step_of_reserved {s : State} (h : Reserved s.sel) : step s = raise s .selReserved := by
  obtain ⟨e, he⟩ := (decode_eq_error_iff_reserved s.sel).2 h
  exact step_of_reject he

/-- The selectors the decoder rejects, in ascending order. -/
def rejectedSelectors : List Selector :=
  ((List.finRange 256).map BitVec.ofFin).filter fun sel => (decode sel).toOption.isNone

theorem nodup_rejectedSelectors : rejectedSelectors.Nodup :=
  List.Pairwise.filter _ <| List.Pairwise.map _ (fun _ _ hne heq => hne (congrArg BitVec.toFin heq))
    (List.nodup_finRange 256)

theorem length_rejectedSelectors : rejectedSelectors.length = 210 := by
  rfl

theorem mem_rejectedSelectors_iff (sel : Selector) : sel ∈ rejectedSelectors ↔ Reserved sel := by
  rw [← decode_eq_error_iff_reserved, rejectedSelectors, List.mem_filter]
  have hmem : sel ∈ (List.finRange 256).map BitVec.ofFin :=
    List.mem_map.2 ⟨sel.toFin, List.mem_finRange _, rfl⟩
  cases decode sel <;> simp [hmem, Except.toOption]

/-- Settles O4: the decoder rejects R40's values and no operation's selector, and counting what it rejects gives 210. -/
theorem reservedSelectorsRefused : Obligations.ReservedSelectorsRefused := by
  refine ⟨fun s h => ⟨?_, fun i hi => encode_not_reserved i (hi ▸ h)⟩,
    rejectedSelectors, nodup_rejectedSelectors, length_rejectedSelectors, mem_rejectedSelectors_iff⟩
  rw [step_of_reserved h]
  exact raise_refuses s .selReserved

/-! ### Table words and the step -/

theorem decodeTableWord_eq_some_iff_decode {nbits w : Nat} {i : Instr} :
    decodeTableWord nbits w = some i ↔ decode (selOfTableWord nbits w) = .ok i := by
  rw [decodeTableWord]
  split <;> simp [*]

/-- A table word names the operation whose selector it holds. -/
theorem decodeTableWord_eq_some_iff {nbits w : Nat} {i : Instr} :
    decodeTableWord nbits w = some i ↔ selOfTableWord nbits w = encode i :=
  decodeTableWord_eq_some_iff_decode.trans (decode_eq_ok_iff _ _)

/-- A table word names no operation exactly when the selector it holds is reserved. -/
theorem decodeTableWord_eq_none_iff {nbits w : Nat} :
    decodeTableWord nbits w = none ↔ Reserved (selOfTableWord nbits w) := by
  rw [← decode_eq_error_iff_reserved, decodeTableWord]
  split <;> simp [*]

/-- Settles O1: the words hold the table's selectors, and the last two hold 0x24 and 0x70, which R40 lists. -/
theorem decodeSpotWords : Obligations.DecodeSpotWords := by
  have legal {w : Nat} {i : Instr} (h : selOfTableWord 8 w = encode i) : decodeTableWord 8 w = some i :=
    decodeTableWord_eq_some_iff.2 h
  refine ⟨legal rfl, legal rfl, legal rfl, legal rfl, legal rfl, legal rfl, legal rfl, legal rfl, ?_, ?_⟩
  all_goals
    rw [decodeTableWord_eq_none_iff]
    simp [Reserved, ReservedValue, selOfTableWord]

/-- Settles O2: a step runs what its selector decodes to, and presenting a word puts the word's selector on the port. -/
theorem stepRunsDecoded : Obligations.StepRunsDecoded :=
  ⟨fun _ _ => step_of_decode, fun _ _ _ h => step_of_decode (decodeTableWord_eq_some_iff_decode.1 h)⟩

/-! ### The pseudo-operation ZEXT -/

theorem wellFormed_zext_iff {p : BuildParams} {a n : Nat} :
    (AsmLine.mk .zext [a, n]).WellFormed p = true ↔ a < 2 ^ Operand.a.bits p ∧ n < 2 ^ Operand.wid.bits p := by
  simp [AsmLine.WellFormed, Mnemonic.operands]

theorem assemble_zext (a n : Nat) :
    (AsmLine.mk .zext [a, n]).assemble = { sel := 0x00, a := a, b := 0, off := 0, wid := n } := rfl

/-- A request that selects an operation gets that operation's response. -/
theorem respond_of_sel {r : Request} {i : Instr} (h : BitVec.ofNat 8 r.sel = encode i) (s : State) :
    respond s r = observeResult (exec i (s.drive r)) :=
  congrArg observeResult (step_of_decode ((decode_eq_ok_iff _ _).2 h))

/-- Settles O25: at offset 0 the range check is `1 <= n <= XLEN`, and the field is the low `n` bits. -/
theorem zextIsExtractAtZero : Obligations.ZextIsExtractAtZero := by
  intro s a n h
  obtain ⟨ha, hn⟩ : a < 2 ^ s.params.width ∧ n < 2 ^ 7 := wellFormed_zext_iff.1 h
  have ha' : (BitVec.ofNat s.params.width a).toNat = a := Nat.mod_eq_of_lt ha
  have hn' : (BitVec.ofNat 7 n).toNat = n := Nat.mod_eq_of_lt hn
  have hrange : InRange s.params.width 0#7 (BitVec.ofNat 7 n) ↔ ¬ (n = 0 ∨ s.params.width < n) := by
    rw [InRange, hn', BitVec.toNat_ofNat]
    omega
  have hvalue (hok : ¬ (n = 0 ∨ s.params.width < n)) :
      (zext s.params.width (fieldOf (BitVec.ofNat s.params.width a) 0#7 (BitVec.ofNat 7 n))).toNat = a % 2 ^ n := by
    rw [toNat_zext _ (by omega), toNat_fieldOf, ha', hn', BitVec.toNat_ofNat, Nat.zero_mod, Nat.pow_zero, Nat.div_one]
  rw [assemble_zext]
  refine ⟨rfl, rfl, rfl, rfl, ?_⟩
  rw [respond_of_sel (i := .extract) rfl]
  split
  case isTrue hbad =>
    rw [execExtract_of_not_inRange fun hin => hrange.1 hin hbad]
    rfl
  case isFalse hok =>
    rw [execExtract_of_inRange (hrange.2 hok), observeResult_drive]
    exact congrArg (fun y => some (Response.mk (some y) false 0)) (hvalue hok)

/-! ### What every view has in common -/

/-- A view accessor answers its value on every word (R51). -/
theorem view_answers {i : Instr} (hi : i.group ≠ .prim) (s : State) :
    Answers (exec i s) s (viewValue s.params s.word i) := by
  rw [exec_view hi]
  exact drive_answers s _

/-- Settles O38: a view accessor only drives the value it reads from the word. -/
theorem viewsAreTotal : Obligations.ViewsAreTotal :=
  fun _ s hi => ⟨_, view_answers hi s, reply_of_answers (view_answers hi s)⟩

theorem zext_opcodeField_word (s : State) (W : Nat) :
    zext W (opcodeField s.word) = BitVec.ofNat W (bits (bits s.a.toNat 31 0) 6 0) := by
  rw [zext_eq_ofNat, toNat_opcodeField, toNat_word]

/-- Settles O26: the six accessors drive the same field of the word. -/
theorem opcodeInEveryView : Obligations.OpcodeInEveryView := by
  refine ⟨⟨decode_encode .rOpcode, decode_encode .iOpcode, decode_encode .sOpcode, decode_encode .bOpcode,
    decode_encode .uOpcode, decode_encode .jOpcode⟩, fun s i hi => ?_⟩
  rw [← zext_opcodeField_word]
  simp only [List.mem_cons, List.not_mem_nil, or_false] at hi
  rcases hi with rfl | rfl | rfl | rfl | rfl | rfl
  all_goals exact view_answers (by decide) s

/-! ### Sign-extended immediates -/

theorem msb_immI (w : Word) : (immI w).msb = w.getLsbD 31 := by
  rw [BitVec.msb_eq_getLsbD_last, immI, BitVec.getLsbD_extractLsb]
  rfl

theorem msb_immS (w : Word) : (immS w).msb = w.getLsbD 31 := by
  simp only [BitVec.msb_eq_getLsbD_last, immS, BitVec.getLsbD_append, BitVec.getLsbD_extractLsb]
  rfl

theorem msb_immB (w : Word) : (immB w).msb = w.getLsbD 31 := by
  simp only [BitVec.msb_eq_getLsbD_last, immB, BitVec.getLsbD_append, BitVec.getLsbD_extractLsb]
  rfl

theorem msb_immU (w : Word) : (immU w).msb = w.getLsbD 31 := by
  simp only [BitVec.msb_eq_getLsbD_last, immU, BitVec.getLsbD_append, BitVec.getLsbD_extractLsb]
  rfl

theorem msb_immJ (w : Word) : (immJ w).msb = w.getLsbD 31 := by
  simp only [BitVec.msb_eq_getLsbD_last, immJ, BitVec.getLsbD_append, BitVec.getLsbD_extractLsb]
  rfl

theorem getLsbD_word_31 (s : State) : s.word.getLsbD 31 = s.a.getLsbD 31 := by
  rw [State.word, BitVec.getLsbD_setWidth, decide_eq_true (by decide), Bool.true_and]

/-- SEXT of the number a raw immediate reads as, from the immediate's width, is the immediate sign-extended. -/
theorem reply_sext_ofNat (s : State) {wid : Pos} (h : SourceWidthLegal s.params.width wid) (imm : BitVec wid.toNat) :
    reply .sext { s with a := BitVec.ofNat _ imm.toNat, wid := wid } = some (sext s.params.width imm).toNat := by
  have hlt : imm.toNat < 2 ^ s.params.width :=
    Nat.lt_of_lt_of_le imm.isLt (Nat.pow_le_pow_right (by decide) h.2)
  have hfield : fieldOf (BitVec.ofNat s.params.width imm.toNat) 0 wid = imm := by
    apply BitVec.eq_of_toNat_eq
    rw [toNat_fieldOf, BitVec.toNat_ofNat, Nat.mod_eq_of_lt hlt]
    exact (congrArg (· % 2 ^ wid.toNat) (Nat.div_one _)).trans (Nat.mod_eq_of_lt imm.isLt)
  rw [reply_of_drive (execSext_of_legal h), hfield]

/-- The accessor `ext` answers SEXT of what `raw` answers, from the width `wid`, and the sign bit is `w[31]`. -/
def IsSextOfRaw (s : State) (raw ext : Instr) (wid : Pos) : Prop :=
  ∃ r e, reply raw s = some r ∧ reply ext s = some e ∧
    reply .sext { s with a := BitVec.ofNat _ r, wid := wid } = some e ∧
    r.testBit (wid.toNat - 1) = s.a.getLsbD 31 ∧
    ∀ k, wid.toNat ≤ k → k < s.params.width → e.testBit k = s.a.getLsbD 31

/-- Two accessors that drive one immediate zero-extended and sign-extended are so related. -/
theorem isSextOfRaw_of_imm {s : State} {raw ext : Instr} {wid : Pos} (imm : BitVec wid.toNat)
    (hwid : 1 ≤ wid.toNat ∧ wid.toNat ≤ 32) (hraw : exec raw s = drive s (zext _ imm))
    (hext : exec ext s = drive s (sext _ imm)) (hmsb : imm.msb = s.word.getLsbD 31) : IsSextOfRaw s raw ext wid := by
  obtain ⟨hpos, h32⟩ := hwid
  have hle : wid.toNat ≤ s.params.width := Nat.le_trans h32 (width_ge _)
  rw [getLsbD_word_31] at hmsb
  refine ⟨imm.toNat, (sext s.params.width imm).toNat, ?_, reply_of_drive hext, reply_sext_ofNat s ⟨hpos, hle⟩ imm,
    ?_, fun k hk hkW => ?_⟩
  · rw [reply_of_drive hraw, toNat_zext _ hle]
  · rw [BitVec.testBit_toNat, ← BitVec.msb_eq_getLsbD_last, hmsb]
  · rw [BitVec.testBit_toNat, sext, BitVec.getLsbD_signExtend, decide_eq_true hkW, if_neg (Nat.not_lt.2 hk), hmsb,
      Bool.true_and]

/-- Settles O37: each view drives one immediate raw and sign-extended, and the top bit of the immediate is `w[31]`. -/
theorem immExtIsSextOfImm : Obligations.ImmExtIsSextOfImm := by
  intro s x hx
  change IsSextOfRaw s x.1 x.2.1 x.2.2
  simp only [List.mem_cons, List.not_mem_nil, or_false] at hx
  rcases hx with rfl | rfl | rfl | rfl | rfl
  · exact isSextOfRaw_of_imm (immI s.word) (by decide) rfl rfl (msb_immI _)
  · exact isSextOfRaw_of_imm (immS s.word) (by decide) rfl rfl (msb_immS _)
  · exact isSextOfRaw_of_imm (immB s.word) (by decide) rfl rfl (msb_immB _)
  · exact isSextOfRaw_of_imm (immU s.word) (by decide) rfl rfl (msb_immU _)
  · exact isSextOfRaw_of_imm (immJ s.word) (by decide) rfl rfl (msb_immJ _)

end Sys2Proof.Machine
end

section
/-!
PROOFS of the bitfield rules (spec/40_bitfield.md): EXTRACT, SET and their 32-bit forms, when each fault is the response
(60_exceptions.md R150 to R153), and the four laws of R66.
-/

namespace Sys2Proof.Machine

/-! ### Bit ranges of numbers -/

theorem testBit_bits (v hi lo k : Nat) :
    (bits v hi lo).testBit k = (decide (k < hi - lo + 1) && v.testBit (lo + k)) := by
  rw [bits, Nat.testBit_mod_two_pow, Nat.testBit_div_two_pow, Nat.add_comm k]

/-- A range of `wid` bits from `off` up, as the division and remainder the model computes. -/
theorem bits_of_width {wid : Nat} (h : 1 ≤ wid) (v off : Nat) :
    bits v (off + wid - 1) off = v / 2 ^ off % 2 ^ wid := by
  rw [bits, show off + wid - 1 - off + 1 = wid by omega]

theorem bits_congr {v v' hi lo : Nat} (hlo : lo ≤ hi) (h : ∀ k, lo ≤ k → k ≤ hi → v.testBit k = v'.testBit k) :
    bits v hi lo = bits v' hi lo := by
  apply Nat.eq_of_testBit_eq
  intro k
  rw [testBit_bits, testBit_bits]
  by_cases hk : k < hi - lo + 1
  · rw [h (lo + k) (by omega) (by omega)]
  · rw [decide_eq_false hk, Bool.false_and, Bool.false_and]

/-- A bit range below bit `W` does not see a cut to `W` bits. -/
theorem bits_mod_two_pow {W hi lo : Nat} (v : Nat) (hlo : lo ≤ hi) (hhi : hi < W) :
    bits (v % 2 ^ W) hi lo = bits v hi lo :=
  bits_congr hlo fun k _ hk => by
    rw [Nat.testBit_mod_two_pow, decide_eq_true (Nat.lt_of_le_of_lt hk hhi), Bool.true_and]

theorem zext_fieldOf {W : Nat} (V : Nat) (v : BitVec W) {off wid : Pos} (h : 1 ≤ wid.toNat) :
    zext V (fieldOf v off wid) = BitVec.ofNat V (bits v.toNat (off.toNat + wid.toNat - 1) off.toNat) := by
  rw [zext_eq_ofNat, toNat_fieldOf, bits_of_width h]

/-- A number that fits a port is what the port then carries. -/
theorem toNat_ofNat_port (p : BuildParams) {n k : Nat} (hn : n < 2 ^ k) (hk : k ≤ p.width) :
    (BitVec.ofNat p.width n).toNat = n :=
  Nat.mod_eq_of_lt (Nat.lt_of_lt_of_le hn (Nat.pow_le_pow_right (by decide) hk))

/-! ### A container with a field inserted -/

section
variable {W a b y : Nat} {off wid : Pos}

/-- Only the low `wid` bits of the field value count (R65). -/
theorem isInserted_mod_iff :
    IsInserted W a (b % 2 ^ wid.toNat) off wid y ↔ IsInserted W a b off wid y := by
  have hbit (k : Nat) : (if off.toNat ≤ k ∧ k < off.toNat + wid.toNat
        then (b % 2 ^ wid.toNat).testBit (k - off.toNat) else a.testBit k) =
      if off.toNat ≤ k ∧ k < off.toNat + wid.toNat then b.testBit (k - off.toNat) else a.testBit k := by
    split
    · rw [Nat.testBit_mod_two_pow, decide_eq_true (by omega), Bool.true_and]
    · rfl
  simp only [IsInserted, hbit]

/-- The field reads back as the value, cut to the field's width (R66, first law). -/
theorem IsInserted.field (h : IsInserted W a b off wid y) (hr : InRange W off wid) :
    bits y (off.toNat + wid.toNat - 1) off.toNat = b % 2 ^ wid.toNat := by
  obtain ⟨hpos, hend⟩ := hr
  apply Nat.eq_of_testBit_eq
  intro k
  rw [testBit_bits, Nat.testBit_mod_two_pow, show off.toNat + wid.toNat - 1 - off.toNat + 1 = wid.toNat by omega]
  by_cases hk : k < wid.toNat
  · rw [h.2 _ (by omega), if_pos (by omega), Nat.add_sub_cancel_left]
  · rw [decide_eq_false hk, Bool.false_and, Bool.false_and]

/-- A bit range that does not meet the field is the container's. -/
theorem IsInserted.bits_of_disjoint (h : IsInserted W a b off wid y) {hi lo : Nat} (hlo : lo ≤ hi) (hhi : hi < W)
    (hdis : hi < off.toNat ∨ off.toNat + wid.toNat ≤ lo) : bits y hi lo = bits a hi lo :=
  bits_congr hlo fun k _ _ => by rw [h.2 k (by omega), if_neg (by omega)]

/-- Writing back what a field reads changes nothing (R66, second law). -/
theorem isInserted_bits_self :
    IsInserted W a (bits a (off.toNat + wid.toNat - 1) off.toNat) off wid (a % 2 ^ W) := by
  refine ⟨Nat.mod_lt _ (Nat.two_pow_pos _), fun k hk => ?_⟩
  rw [Nat.testBit_mod_two_pow, decide_eq_true hk, Bool.true_and]
  split
  · rw [testBit_bits, decide_eq_true (by omega), Bool.true_and, Nat.add_sub_cancel' (by omega)]
  · rfl

/-- Two fields that do not meet can be inserted in either order (R66, fourth law). -/
theorem IsInserted.comm {b' z x : Nat} {off' wid' : Pos} (hy : IsInserted W a b off wid y)
    (hz : IsInserted W a b' off' wid' z) (hx : IsInserted W z b off wid x)
    (hdis : off.toNat + wid.toNat ≤ off'.toNat ∨ off'.toNat + wid'.toNat ≤ off.toNat) :
    IsInserted W y b' off' wid' x := by
  refine ⟨hx.1, fun k hk => ?_⟩
  rw [hx.2 k hk, hy.2 k hk, hz.2 k hk]
  by_cases hfst : off.toNat ≤ k ∧ k < off.toNat + wid.toNat
  · rw [if_pos hfst, if_pos hfst, if_neg (by omega)]
  · rw [if_neg hfst, if_neg hfst]

end

/-! ### EXTRACT and EXTRACT32 -/

/-- Settles O16: in range the field is the bit range of `a`, and out of range the first guard raises RANGE. -/
theorem extractRule : Obligations.ExtractRule := by
  refine ⟨decode_encode .extract, fun s => ⟨fun hr => ?_, fun hr => ?_⟩⟩
  · rw [execExtract_of_inRange hr, zext_fieldOf _ _ hr.1]
    exact drive_answers s _
  · rw [execExtract_of_not_inRange hr]
    exact raise_refuses s .range

theorem width_of_x32 {s : State} (h : s.params.xlen = .x32) : s.params.width = 32 := by
  rw [BuildParams.width, h]

/-- At `XLEN = 32` the 32-bit container is the whole of `a`. -/
theorem toNat_container32_of_x32 {s : State} (h : s.params.xlen = .x32) : s.container32.toNat = s.a.toNat := by
  rw [State.container32, BitVec.toNat_setWidth_of_le (Nat.le_of_eq (width_of_x32 h))]

theorem exec_extract32_of_x32 {s : State} (h : s.params.xlen = .x32) : exec .extract32 s = exec .extract s := by
  by_cases hr : InRange 32 s.off s.wid
  · have hr' : InRange s.params.width s.off s.wid := (width_of_x32 h).symm ▸ hr
    rw [execExtract32_of_inRange hr, execExtract_of_inRange hr', zext_fieldOf _ _ hr.1, zext_fieldOf _ _ hr.1,
      toNat_container32_of_x32 h]
  · have hr' : ¬ InRange s.params.width s.off s.wid := (width_of_x32 h).symm ▸ hr
    rw [execExtract32_of_not_inRange hr, execExtract_of_not_inRange hr']

/-- Settles O18: as EXTRACT, on the container `a[31:0]`. -/
theorem extract32Rule : Obligations.Extract32Rule := by
  refine ⟨decode_encode .extract32, fun s => ⟨fun hr => ?_, fun hr => ?_, exec_extract32_of_x32⟩⟩
  · rw [execExtract32_of_inRange hr, zext_fieldOf _ _ hr.1, container32_eq_word, toNat_word]
    exact drive_answers s _
  · rw [execExtract32_of_not_inRange hr]
    exact raise_refuses s .range

/-! ### SET and SET32 -/

section
variable {E S : Instr} {W : Nat} {s : State}

theorem exec_set_of_not_inRange (h : MatchingPair s.params E S W) (hr : ¬ InRange W s.off s.wid) :
    exec S s = raise s .range := by
  rcases h with ⟨rfl, rfl, rfl⟩ | ⟨rfl, rfl, rfl⟩
  · exact execSet_of_not_inRange hr
  · exact execSet32_of_not_inRange hr

theorem exec_set_of_refused (h : MatchingPair s.params E S W) (hr : InRange W s.off s.wid)
    (hv : RefusesFieldValue s) : exec S s = raise s .oversize := by
  rcases h with ⟨rfl, rfl, rfl⟩ | ⟨rfl, rfl, rfl⟩
  · exact execSet_of_refused hr hv
  · exact execSet32_of_refused hr hv

theorem exec_set_of_accepted (h : MatchingPair s.params E S W) (hr : InRange W s.off s.wid)
    (hv : ¬ RefusesFieldValue s) :
    ∃ v, exec S s = drive s v ∧ IsInserted W s.a.toNat s.b.toNat s.off s.wid v.toNat := by
  rcases h with ⟨rfl, rfl, rfl⟩ | ⟨rfl, rfl, rfl⟩
  · exact ⟨_, execSet_of_accepted hr hv, isInserted_set _ _ _ _⟩
  · exact ⟨_, execSet32_of_accepted hr hv, isInserted_set32 (width_ge _) _ _ _ _ hr⟩

theorem set_refuses_range (h : MatchingPair s.params E S W) (hr : ¬ InRange W s.off s.wid) :
    Refuses (exec S s) s 0b10#2 :=
  exec_set_of_not_inRange h hr ▸ raise_refuses s .range

theorem set_refuses_oversize (h : MatchingPair s.params E S W) (hr : InRange W s.off s.wid)
    (hv : RefusesFieldValue s) : Refuses (exec S s) s 0b11#2 :=
  exec_set_of_refused h hr hv ▸ raise_refuses s .oversize

theorem set_answers (h : MatchingPair s.params E S W) (hr : InRange W s.off s.wid) (hv : ¬ RefusesFieldValue s) :
    ∃ v, Answers (exec S s) s v ∧ IsInserted W s.a.toNat s.b.toNat s.off s.wid v.toNat := by
  obtain ⟨v, hexec, hins⟩ := exec_set_of_accepted h hr hv
  exact ⟨v, hexec ▸ drive_answers s v, hins⟩

end

theorem matchingPair_xlen (p : BuildParams) : MatchingPair p .extract .set p.width := .inl ⟨rfl, rfl, rfl⟩

theorem matchingPair_32 (p : BuildParams) : MatchingPair p .extract32 .set32 32 := .inr ⟨rfl, rfl, rfl⟩

/-- Settles O17: the value SET drives is `a` with the field inserted. -/
theorem setRule : Obligations.SetRule := by
  refine ⟨decode_encode .set, fun s => ⟨fun hr hv => ?_, set_refuses_range (matchingPair_xlen _),
    set_refuses_oversize (matchingPair_xlen _)⟩⟩
  obtain ⟨v, hans, -, hbits⟩ := set_answers (matchingPair_xlen _) hr hv
  exact ⟨v, hans, hbits⟩

theorem exec_set32_of_x32 {s : State} (h : s.params.xlen = .x32) : exec .set32 s = exec .set s := by
  have hpair : MatchingPair s.params .extract .set 32 := .inl ⟨rfl, rfl, (width_of_x32 h).symm⟩
  by_cases hr : InRange 32 s.off s.wid
  · by_cases hv : RefusesFieldValue s
    · rw [exec_set_of_refused (matchingPair_32 _) hr hv, exec_set_of_refused hpair hr hv]
    · obtain ⟨v, hexec, hins⟩ := exec_set_of_accepted (matchingPair_32 _) hr hv
      obtain ⟨v', hexec', hins'⟩ := exec_set_of_accepted hpair hr hv
      rw [hexec, hexec', BitVec.eq_of_toNat_eq (hins.unique hins')]
  · rw [exec_set_of_not_inRange (matchingPair_32 _) hr, exec_set_of_not_inRange hpair hr]

/-- Settles O19: the value SET32 drives is `a[31:0]` with the field inserted, and so less than `2 ^ 32`. -/
theorem set32Rule : Obligations.Set32Rule := by
  refine ⟨decode_encode .set32, fun s => ⟨fun hr hv => ?_, set_refuses_range (matchingPair_32 _),
    set_refuses_oversize (matchingPair_32 _), exec_set32_of_x32⟩⟩
  obtain ⟨v, hans, hlt, hbits⟩ := set_answers (matchingPair_32 _) hr hv
  refine ⟨v, hans, fun k _ => ?_⟩
  split
  case isTrue hk => exact Nat.testBit_lt_two_pow (Nat.lt_of_lt_of_le hlt (Nat.pow_le_pow_right (by decide) hk))
  case isFalse hk => exact hbits k (Nat.lt_of_not_le hk)

/-! ### The oversize check -/

theorem not_refusesFieldValue_of_mask {s : State} (h : s.params.setOversize = .mask) : ¬ RefusesFieldValue s := by
  rintro ⟨hfault, -⟩
  cases h.symm.trans hfault

theorem not_refusesFieldValue_of_lt {s : State} (h : s.b.toNat < 2 ^ s.wid.toNat) : ¬ RefusesFieldValue s :=
  fun hv => Nat.not_le.2 h hv.2

/-- The request with its field value cut to `wid` bits. -/
def State.cutB (s : State) : State := { s with b := BitVec.ofNat _ (s.b.toNat % 2 ^ s.wid.toNat) }

theorem toNat_cutB_b (s : State) : s.cutB.b.toNat = s.b.toNat % 2 ^ s.wid.toNat :=
  Nat.mod_eq_of_lt (Nat.lt_of_le_of_lt (Nat.mod_le _ _) s.b.isLt)

/-- Where the build masks, a SET responds as if its field value were cut to `wid` bits (R65). -/
theorem observeResult_set_cutB {E S : Instr} {W : Nat} {s : State} (h : MatchingPair s.params E S W)
    (hmask : s.params.setOversize = .mask) : observeResult (exec S s) = observeResult (exec S s.cutB) := by
  by_cases hr : InRange W s.off s.wid
  · obtain ⟨v, hexec, hins⟩ := exec_set_of_accepted h hr (not_refusesFieldValue_of_mask hmask)
    obtain ⟨v', hexec', hins'⟩ := exec_set_of_accepted (s := s.cutB) h hr (not_refusesFieldValue_of_mask hmask)
    rw [toNat_cutB_b] at hins'
    rw [hexec, hexec']
    exact observeResult_drive_congr (hins.unique (isInserted_mod_iff.1 hins'))
  · rw [exec_set_of_not_inRange h hr, exec_set_of_not_inRange (s := s.cutB) h hr, observeResult_raise,
      observeResult_raise]

/-- Settles O20: a masking build refuses no field value, a faulting one exactly those of at least `2 ^ wid`. -/
theorem oversizeRule : Obligations.OversizeRule := by
  intro s i W hi hr
  obtain ⟨E, h⟩ : ∃ E, MatchingPair s.params E i W :=
    hi.elim (fun hset => ⟨.extract, .inl ⟨rfl, hset⟩⟩) (fun hset32 => ⟨.extract32, .inr ⟨rfl, hset32⟩⟩)
  have answers (hv : ¬ RefusesFieldValue s) : ∃ v, Answers (exec i s) s v := (set_answers h hr hv).imp fun _ => And.left
  refine ⟨fun hmask => ⟨answers (not_refusesFieldValue_of_mask hmask), ?_⟩, fun hfault => ⟨fun hb => ?_, fun hb => ?_⟩⟩
  · exact congrArg (Option.bind · Response.y) (observeResult_set_cutB h hmask)
  · exact set_refuses_oversize h hr ⟨hfault, hb⟩
  · exact answers (not_refusesFieldValue_of_lt hb)

/-! ### When each fault is the response -/

/-- The operation is refused for its position or its source width (R64, R71). -/
def RaisesRange (i : Instr) (s : State) : Prop :=
  (i = .extract ∨ i = .set) ∧ ¬ InRange s.params.width s.off s.wid ∨
    (i = .extract32 ∨ i = .set32) ∧ ¬ InRange 32 s.off s.wid ∨
    i = .sext ∧ ¬ SourceWidthLegal s.params.width s.wid

/-- The operation is refused for its field value, its position being legal (R65). -/
def RaisesOversize (i : Instr) (s : State) : Prop :=
  (i = .set ∧ InRange s.params.width s.off s.wid ∨ i = .set32 ∧ InRange 32 s.off s.wid) ∧ RefusesFieldValue s

theorem exec_of_raisesRange {i : Instr} {s : State} (h : RaisesRange i s) : exec i s = raise s .range := by
  rcases h with ⟨rfl | rfl, hr⟩ | ⟨rfl | rfl, hr⟩ | ⟨rfl, hl⟩
  · exact execExtract_of_not_inRange hr
  · exact execSet_of_not_inRange hr
  · exact execExtract32_of_not_inRange hr
  · exact execSet32_of_not_inRange hr
  · exact execSext_of_not_legal hl

theorem exec_of_raisesOversize {i : Instr} {s : State} (h : RaisesOversize i s) : exec i s = raise s .oversize := by
  obtain ⟨⟨rfl, hr⟩ | ⟨rfl, hr⟩, hv⟩ := h
  · exact execSet_of_refused hr hv
  · exact execSet32_of_refused hr hv

theorem exec_of_raises_nothing {i : Instr} {s : State} (hR : ¬ RaisesRange i s) (hO : ¬ RaisesOversize i s) :
    ∃ v, exec i s = drive s v := by
  by_cases hg : i.group = .prim
  · cases i with
    | extract => exact ⟨_, execExtract_of_inRange (by simpa [RaisesRange] using hR)⟩
    | set =>
      have hr : InRange s.params.width s.off s.wid := by simpa [RaisesRange] using hR
      exact ⟨_, execSet_of_accepted hr fun hv => hO ⟨.inl ⟨rfl, hr⟩, hv⟩⟩
    | extract32 => exact ⟨_, execExtract32_of_inRange (by simpa [RaisesRange] using hR)⟩
    | set32 =>
      have hr : InRange 32 s.off s.wid := by simpa [RaisesRange] using hR
      exact ⟨_, execSet32_of_accepted hr fun hv => hO ⟨.inr ⟨rfl, hr⟩, hv⟩⟩
    | sext => exact ⟨_, execSext_of_legal (by simpa [RaisesRange] using hR)⟩
    | _ => exact nomatch hg
  · exact ⟨_, exec_view hg s⟩

/-- The range check comes before the oversize check (R153). -/
theorem not_raisesOversize_of_raisesRange {i : Instr} {s : State} (h : RaisesRange i s) : ¬ RaisesOversize i s := by
  intro hO
  cases (exec_of_raisesRange h).symm.trans (exec_of_raisesOversize hO)

/-- The code a decoded operation answers with. -/
theorem fcode_of_exec {i : Instr} {s t : State} (h : exec i s = .next t) :
    t.fcode ≠ 0b01#2 ∧ (t.fcode = 0b10#2 ↔ RaisesRange i s) ∧ (t.fcode = 0b11#2 ↔ RaisesOversize i s) := by
  by_cases hR : RaisesRange i s
  · obtain rfl : s.refuse .range = t := Host.Outcome.next.inj ((exec_of_raisesRange hR).symm.trans h)
    simp [hR, not_raisesOversize_of_raisesRange hR, faultCode]
  · by_cases hO : RaisesOversize i s
    · obtain rfl : s.refuse .oversize = t := Host.Outcome.next.inj ((exec_of_raisesOversize hO).symm.trans h)
      simp [hR, hO, faultCode]
    · obtain ⟨v, hexec⟩ := exec_of_raises_nothing hR hO
      obtain rfl : s.answer v = t := Host.Outcome.next.inj (hexec.symm.trans h)
      simp [hR, hO]

/-- A selector stands for the operation it decodes to, in the two conditions of R150. -/
theorem raises_iff_sel {s : State} {i : Instr} (hsel : s.sel = encode i) :
    (RaisesRange i s ↔
      ((s.sel = 0x00#8 ∨ s.sel = 0x01#8) ∧ ¬ InRange s.params.width s.off s.wid) ∨
      ((s.sel = 0x02#8 ∨ s.sel = 0x03#8) ∧ ¬ InRange 32 s.off s.wid) ∨
      (s.sel = 0x04#8 ∧ ¬ SourceWidthLegal s.params.width s.wid)) ∧
    (RaisesOversize i s ↔
      ((s.sel = 0x01#8 ∧ InRange s.params.width s.off s.wid) ∨ (s.sel = 0x03#8 ∧ InRange 32 s.off s.wid)) ∧
      RefusesFieldValue s) := by
  have hop (j : Instr) : s.sel = encode j ↔ i = j := by rw [hsel, encode_injective.eq_iff]
  rw [show s.sel = 0x00#8 ↔ _ from hop .extract, show s.sel = 0x01#8 ↔ _ from hop .set,
    show s.sel = 0x02#8 ↔ _ from hop .extract32, show s.sel = 0x03#8 ↔ _ from hop .set32,
    show s.sel = 0x04#8 ↔ _ from hop .sext]
  exact ⟨.rfl, .rfl⟩

/-- Settles O15: a reserved selector is no operation's, and a decoded operation's code is that of its own checks. -/
theorem faultsExactly : Obligations.FaultsExactly := by
  intro s
  refine ⟨?_, fun hmask hset => ?_⟩
  · obtain ⟨t, hstep, -⟩ := step_next_params s
    refine ⟨t, hstep, (step_inv hstep).faultIffCode, ?_⟩
    by_cases hres : Reserved s.sel
    · have hne (j : Instr) : s.sel ≠ encode j := fun h => encode_not_reserved j (h ▸ hres)
      obtain rfl : s.refuse .selReserved = t := Host.Outcome.next.inj ((step_of_reserved hres).symm.trans hstep)
      simp [hres, faultCode, show s.sel ≠ 0x00#8 from hne .extract, show s.sel ≠ 0x01#8 from hne .set,
        show s.sel ≠ 0x02#8 from hne .extract32, show s.sel ≠ 0x03#8 from hne .set32,
        show s.sel ≠ 0x04#8 from hne .sext]
    · rcases step_cases s with ⟨i, hdec, hexec⟩ | ⟨e, hdec, -⟩
      · obtain ⟨hsel, hrange, hover⟩ := fcode_of_exec (hexec.symm.trans hstep)
        obtain ⟨hR, hO⟩ := raises_iff_sel ((decode_eq_ok_iff _ _).1 hdec)
        exact ⟨iff_of_false hsel hres, hrange.trans hR, hover.trans hO⟩
      · exact absurd ((decode_eq_error_iff_reserved _).1 ⟨e, hdec⟩) hres
  · change observeResult (step s) = observeResult (step s.cutB)
    obtain ⟨E, S, W, hsel, h⟩ : ∃ E S W, s.sel = encode S ∧ MatchingPair s.params E S W :=
      hset.elim (fun h => ⟨_, .set, _, h, matchingPair_xlen _⟩) (fun h => ⟨_, .set32, _, h, matchingPair_32 _⟩)
    have hdec := (decode_eq_ok_iff s.sel S).2 hsel
    rw [step_of_decode hdec, step_of_decode (s := s.cutB) hdec]
    exact observeResult_set_cutB h hmask

/-! ### The four laws -/

section
variable {E S : Instr} {W : Nat} {s : State}

theorem MatchingPair.le_width (h : MatchingPair s.params E S W) : W ≤ s.params.width := by
  have := width_ge s.params
  rcases h with ⟨-, -, rfl⟩ | ⟨-, -, rfl⟩ <;> omega

/-- An EXTRACT in range replies with the bit range of `a`. -/
theorem reply_extract_of_inRange (h : MatchingPair s.params E S W) (hr : InRange W s.off s.wid) :
    reply E s = some (bits s.a.toNat (s.off.toNat + s.wid.toNat - 1) s.off.toNat) := by
  obtain ⟨hpos, hend⟩ := hr
  rw [reply_extract_iff h, ← bits_of_width hpos, bits_mod_two_pow _ (by omega) (by omega)]
  exact ⟨⟨hpos, hend⟩, rfl⟩

/-- A SET in range whose field value is accepted replies. -/
theorem exists_reply_set (h : MatchingPair s.params E S W) (hr : InRange W s.off s.wid)
    (hv : ¬ RefusesFieldValue s) :
    ∃ y, reply S s = some y ∧ IsInserted W s.a.toNat s.b.toNat s.off s.wid y := by
  obtain ⟨v, hexec, hins⟩ := exec_set_of_accepted h hr hv
  exact ⟨_, reply_of_drive hexec, hins⟩

/-- The first law of R66. -/
theorem reply_extract_of_reply_set (h : MatchingPair s.params E S W) {y : Nat} (hy : reply S s = some y) :
    reply E { s with a := BitVec.ofNat _ y } = some (s.b.toNat % 2 ^ s.wid.toNat) := by
  obtain ⟨hr, -, hins⟩ := (reply_set_iff h y).1 hy
  refine (reply_extract_of_inRange (s := { s with a := BitVec.ofNat _ y }) h hr).trans (congrArg some ?_)
  exact (congrArg (bits · _ _) (toNat_ofNat_port s.params hins.1 h.le_width)).trans (hins.field hr)

/-- The second law of R66. -/
theorem reply_set_of_reply_extract (h : MatchingPair s.params E S W) {f : Nat} (hf : reply E s = some f) :
    reply S { s with b := BitVec.ofNat _ f } = some (s.a.toNat % 2 ^ W) := by
  have hr : InRange W s.off s.wid := ((reply_extract_iff h f).1 hf).1
  obtain rfl : bits s.a.toNat (s.off.toNat + s.wid.toNat - 1) s.off.toNat = f :=
    Option.some.inj ((reply_extract_of_inRange h hr).symm.trans hf)
  have hlt : bits s.a.toNat (s.off.toNat + s.wid.toNat - 1) s.off.toNat < 2 ^ s.wid.toNat := by
    rw [bits_of_width hr.1]
    exact Nat.mod_lt _ (Nat.two_pow_pos _)
  have hb := toNat_ofNat_port s.params hlt (Nat.le_trans (Nat.le_trans (Nat.le_add_left _ _) hr.2) h.le_width)
  refine (reply_set_iff (s := { s with b := BitVec.ofNat _ _ }) h _).2
    ⟨hr, not_refusesFieldValue_of_lt (Nat.lt_of_le_of_lt (Nat.le_of_eq hb) hlt), ?_⟩
  rw [hb]
  exact isInserted_bits_self

/-- The fourth law of R66. -/
theorem reply_set_comm (h : MatchingPair s.params E S W) {off' wid' : Pos} {b' : BitVec s.params.width} {y z : Nat}
    (hdis : s.off.toNat + s.wid.toNat ≤ off'.toNat ∨ off'.toNat + wid'.toNat ≤ s.off.toNat)
    (hy : reply S s = some y) (hz : reply S { s with b := b', off := off', wid := wid' } = some z) :
    ∃ x, reply S { s with a := BitVec.ofNat _ z } = some x ∧
      reply S { s with a := BitVec.ofNat _ y, b := b', off := off', wid := wid' } = some x := by
  obtain ⟨hr, hv, hins⟩ := (reply_set_iff h y).1 hy
  obtain ⟨hr', hv', hins'⟩ := (reply_set_iff (s := { s with b := b', off := off', wid := wid' }) h z).1 hz
  obtain ⟨x, hx, hinsx⟩ := exists_reply_set (s := { s with a := BitVec.ofNat _ z }) h hr hv
  refine ⟨x, hx, (reply_set_iff (s := { s with a := BitVec.ofNat _ y, b := b', off := off', wid := wid' }) h x).2
    ⟨hr', hv', ?_⟩⟩
  rw [toNat_ofNat_port s.params hins'.1 h.le_width] at hinsx
  rw [toNat_ofNat_port s.params hins.1 h.le_width]
  exact hins.comm hins' hinsx hdis

end

/-- Settles O21: a SET's reply is the container with the field inserted, an EXTRACT's the field's bit range. -/
theorem bitfieldLaws : Obligations.BitfieldLaws := by
  intro s E S W h
  refine ⟨fun y => reply_extract_of_reply_set h, fun f => reply_set_of_reply_extract h, fun y hy k hk hout => ?_,
    fun off' wid' b' y z hdis hy hz => ?_⟩
  · obtain ⟨-, -, hins⟩ := (reply_set_iff h y).1 hy
    rw [hins.2 k hk, if_neg hout]
  · obtain ⟨x, hx, hx'⟩ := reply_set_comm h hdis hy hz
    rw [hx, hx']
    exact ⟨rfl, rfl⟩

end Sys2Proof.Machine
end

section
/-!
PROOFS of the rules that tie the views to the bitfield operations (spec/40_bitfield.md R67) and of the round trips
through an instruction word (95_test_vectors.md E1 to E3).
-/

namespace Sys2Proof.Machine

/-! ### The accessors that read one piece of the word -/

/-- Offset and width of the field an accessor reads, for the accessors whose field stands in one piece (R67). -/
def fieldPosition : Instr → Option (Pos × Pos)
  | .rOpcode | .iOpcode | .sOpcode | .bOpcode | .uOpcode | .jOpcode => some (0, 7)
  | .rRd | .iRd | .uRd | .jRd => some (7, 5)
  | .rFunct3 | .iFunct3 | .sFunct3 | .bFunct3 => some (12, 3)
  | .rRs1 | .iRs1 | .sRs1 | .bRs1 | .iZimm => some (15, 5)
  | .rRs2 | .sRs2 | .bRs2 | .iShamt5 => some (20, 5)
  | .rFunct7 | .iShup5 => some (25, 7)
  | .iImm | .iCsr => some (20, 12)
  | .iShamt6 => some (20, 6)
  | .iShup6 => some (26, 6)
  | _ => none

/-- An operation that drives a value of at most 32 bits, zero-extended, replies with it. -/
theorem reply_of_drive_zext {i : Instr} {s : State} {n : Nat} {v : BitVec n} (h : exec i s = drive s (zext _ v))
    (hn : n ≤ 32) : reply i s = some v.toNat := by
  rw [reply_of_drive h, toNat_zext _ (Nat.le_trans hn (width_ge _))]

section
variable {i : Instr} {off wid : Pos}

/-- The accessor drives the field at its position. -/
theorem exec_of_fieldPosition (h : fieldPosition i = some (off, wid)) (s : State) :
    exec i s = drive s (zext s.params.width (fieldOf s.container32 off wid)) := by
  unfold fieldPosition at h
  split at h <;> cases h <;> rfl

theorem inRange_of_fieldPosition (h : fieldPosition i = some (off, wid)) : InRange 32 off wid := by
  unfold fieldPosition at h
  split at h <;> cases h <;> exact ⟨by decide, by decide⟩

theorem InRange.wid_le {W : Nat} (h : InRange W off wid) : wid.toNat ≤ W := Nat.le_trans (Nat.le_add_left _ _) h.2

/-- EXTRACT32 at any legal position. -/
theorem reply_extract32_at (s : State) (hr : InRange 32 off wid) :
    reply .extract32 { s with off := off, wid := wid } = some (fieldOf s.container32 off wid).toNat :=
  reply_of_drive_zext (s := { s with off := off, wid := wid }) (execExtract32_of_inRange hr) hr.wid_le

/-- R67 for an accessor whose field stands in one piece. -/
theorem reply_eq_extract32 (h : fieldPosition i = some (off, wid)) (s : State) :
    reply i s = reply .extract32 { s with off := off, wid := wid } := by
  have hr := inRange_of_fieldPosition h
  rw [reply_extract32_at s hr, reply_of_drive_zext (exec_of_fieldPosition h s) hr.wid_le]

/-- The accessor replies with the bit range of `a` at its position. -/
theorem reply_of_fieldPosition (h : fieldPosition i = some (off, wid)) (s : State) :
    reply i s = some (bits s.a.toNat (off.toNat + wid.toNat - 1) off.toNat) :=
  (reply_eq_extract32 h s).trans
    (reply_extract_of_inRange (s := { s with off := off, wid := wid }) (matchingPair_32 _) (inRange_of_fieldPosition h))

end

/-! ### Immediates in several pieces -/

theorem toNat_functionKey_eq_or (w : Word) :
    (functionKey w).toNat = (fieldOf w 12 3).toNat ||| (fieldOf w 25 7).toNat <<< 3 := by
  have hpieces : functionKey w = fieldOf w 25 7 ++ fieldOf w 12 3 := rfl
  rw [hpieces, BitVec.toNat_append]
  exact Nat.or_comm _ _

/-- R86: the function key is at most 1023 and gives its two fields back. -/
theorem functionKey_split (w : Word) :
    (functionKey w).toNat ≤ 1023 ∧ (functionKey w).toNat % 8 = (fieldOf w 12 3).toNat ∧
      (functionKey w).toNat / 8 = (fieldOf w 25 7).toNat := by
  have hsum : (functionKey w).toNat = (fieldOf w 25 7).toNat * 2 ^ 3 + (fieldOf w 12 3).toNat := toNat_append_eq_add _ _
  have hkey := (functionKey w).isLt
  have hlow : (fieldOf w 12 3).toNat < 8 := (fieldOf w 12 3).isLt
  omega

theorem toNat_immS_eq_or (w : Word) : (immS w).toNat = (fieldOf w 7 5).toNat ||| (fieldOf w 25 7).toNat <<< 5 := by
  have hpieces : immS w = fieldOf w 25 7 ++ fieldOf w 7 5 := rfl
  rw [hpieces, BitVec.toNat_append]
  exact Nat.or_comm _ _

/-- Four appended pieces over a zero bit, as an OR of the pieces shifted into place, the lowest first. -/
theorem toNat_append_four {n1 n2 n3 n4 : Nat} (x1 : BitVec n1) (x2 : BitVec n2) (x3 : BitVec n3) (x4 : BitVec n4) :
    (x1 ++ x2 ++ x3 ++ x4 ++ 0#1).toNat =
      x4.toNat <<< 1 ||| x3.toNat <<< (n4 + 1) ||| x2.toNat <<< (n3 + n4 + 1) ||| x1.toNat <<< (n2 + n3 + n4 + 1) := by
  simp only [BitVec.toNat_append, Nat.shiftLeft_or_distrib, ← Nat.shiftLeft_add, BitVec.toNat_ofNat, Nat.zero_mod,
    Nat.or_zero]
  ac_rfl

theorem toNat_immB_eq_or (w : Word) : (immB w).toNat =
    (fieldOf w 7 1).toNat <<< 11 ||| (fieldOf w 8 4).toNat <<< 1 ||| (fieldOf w 25 6).toNat <<< 5 |||
      (fieldOf w 31 1).toNat <<< 12 := by
  have hpieces : (immB w).toNat = (fieldOf w 8 4).toNat <<< 1 ||| (fieldOf w 25 6).toNat <<< 5 |||
      (fieldOf w 7 1).toNat <<< 11 ||| (fieldOf w 31 1).toNat <<< 12 :=
    toNat_append_four (fieldOf w 31 1) (fieldOf w 7 1) (fieldOf w 25 6) (fieldOf w 8 4)
  rw [hpieces, Nat.or_comm (_ ||| _) (_ <<< 11), ← Nat.or_assoc]

theorem toNat_immJ_eq_or (w : Word) : (immJ w).toNat =
    (fieldOf w 21 10).toNat <<< 1 ||| (fieldOf w 20 1).toNat <<< 11 ||| (fieldOf w 12 8).toNat <<< 12 |||
      (fieldOf w 31 1).toNat <<< 20 :=
  toNat_append_four (fieldOf w 31 1) (fieldOf w 12 8) (fieldOf w 20 1) (fieldOf w 21 10)

theorem toNat_immU_eq_shift (w : Word) : (immU w).toNat = (fieldOf w 12 20).toNat <<< 12 := by
  have hpieces : immU w = fieldOf w 12 20 ++ 0#12 := rfl
  rw [hpieces, BitVec.toNat_append, BitVec.toNat_ofNat, Nat.zero_mod, Nat.or_zero]

/-- The consumer's mask of a shift amount: EXTRACT of the low bits (R67). -/
theorem reply_extract_low (s : State) {wid : Pos} (hpos : 1 ≤ wid.toNat) (hle : wid.toNat ≤ 32) :
    reply .extract { s with off := 0, wid := wid } = some (s.a.toNat &&& (2 ^ wid.toNat - 1)) := by
  have hr : InRange s.params.width 0 wid := ⟨hpos, Nat.le_trans (by simpa using hle) (width_ge _)⟩
  rw [reply_extract_of_inRange (s := { s with off := 0, wid := wid }) (matchingPair_xlen _) hr, bits_of_width hpos,
    Nat.and_two_pow_sub_one_eq_mod]
  exact congrArg (fun n => some (n % 2 ^ wid.toNat)) (Nat.div_one _)

/-- Settles O22: each accessor drives the field EXTRACT32 reads, or an append of such fields. -/
theorem accessorsAreExtract32 : Obligations.AccessorsAreExtract32 := by
  intro s E
  have piece {off wid : Pos} (hok : bfOk 32 off wid = true) : E off wid = some (fieldOf s.word off wid).toNat :=
    reply_extract32_at s ((bfOk_iff _ _ _).1 hok)
  have accessors {l : List Instr} {off wid : Pos} (hl : ∀ i ∈ l, fieldPosition i = some (off, wid)) :
      ∀ i ∈ l, reply i s = E off wid := fun i hi => reply_eq_extract32 (hl i hi) s
  refine ⟨accessors (by decide), accessors (by decide), accessors (by decide), accessors (by decide),
    accessors (by decide), accessors (by decide), accessors (by decide), reply_eq_extract32 rfl s,
    reply_eq_extract32 rfl s, decode_encode .rFunction, ?_, ?_, ?_, ?_, ?_,
    reply_extract_low s (by decide) (by decide), reply_extract_low s (by decide) (by decide)⟩
  · refine ⟨_, _, piece rfl, piece rfl, ?_⟩
    rw [← toNat_functionKey_eq_or]
    exact ⟨reply_of_drive_zext rfl (by decide), functionKey_split s.word⟩
  · refine ⟨_, _, piece rfl, piece rfl, ?_⟩
    rw [← toNat_immS_eq_or]
    exact reply_of_drive_zext rfl (by decide)
  · refine ⟨_, _, _, _, piece rfl, piece rfl, piece rfl, piece rfl, ?_⟩
    rw [← toNat_immB_eq_or]
    exact reply_of_drive_zext rfl (by decide)
  · refine ⟨_, piece rfl, ?_⟩
    rw [← toNat_immU_eq_shift]
    exact reply_of_drive_zext rfl (by decide)
  · refine ⟨_, _, _, _, piece rfl, piece rfl, piece rfl, piece rfl, ?_⟩
    rw [← toNat_immJ_eq_or]
    exact reply_of_drive_zext rfl (by decide)

/-! ### Round trips -/

/-- Settles O39: the accessor reads the field where SET32 has put the value, which fits. -/
theorem fieldRoundTrip : Obligations.FieldRoundTrip := by
  intro s x hx hb
  have hpos : fieldPosition x.1 = some x.2 :=
    (by decide : ∀ x ∈ _, fieldPosition x.1 = some x.2) x hx
  obtain ⟨y, hy, -⟩ := exists_reply_set (s := { s with off := x.2.1, wid := x.2.2 }) (matchingPair_32 _)
    (inRange_of_fieldPosition hpos) (not_refusesFieldValue_of_lt hb)
  refine ⟨y, hy, ?_⟩
  rw [reply_eq_extract32 hpos]
  exact (reply_extract_of_reply_set (s := { s with off := x.2.1, wid := x.2.2 }) (matchingPair_32 _) hy).trans
    (congrArg some (Nat.mod_eq_of_lt hb))

/-! ### The branch offset -/

/-- A value that fits a field in range is always written, on any word. -/
theorem exists_reply_set32_driven (s : State) {word f : Nat} {off wid : Pos} (hword : word < 2 ^ s.params.width)
    (hok : bfOk 32 off wid = true) (hf : f < 2 ^ wid.toNat) :
    ∃ y, reply .set32 { s with a := BitVec.ofNat _ word, b := BitVec.ofNat _ f, off := off, wid := wid } = some y ∧
      IsInserted 32 word f off wid y := by
  have hr : InRange 32 off wid := (bfOk_iff _ _ _).1 hok
  have ha := toNat_ofNat_port s.params hword (Nat.le_refl _)
  have hb := toNat_ofNat_port s.params hf (Nat.le_trans hr.wid_le (width_ge _))
  obtain ⟨y, hy, hins⟩ := exists_reply_set
    (s := { s with a := BitVec.ofNat _ word, b := BitVec.ofNat _ f, off := off, wid := wid })
    (matchingPair_32 _) hr (not_refusesFieldValue_of_lt (Nat.lt_of_le_of_lt (Nat.le_of_eq hb) hf))
  rw [ha, hb] at hins
  exact ⟨y, hy, hins⟩

section
variable {word m y1 y2 y3 y4 : Nat} (h1 : IsInserted 32 word (bits m 12 12) 31 1 y1)
  (h2 : IsInserted 32 y1 (bits m 11 11) 7 1 y2) (h3 : IsInserted 32 y2 (bits m 10 5) 25 6 y3)
  (h4 : IsInserted 32 y3 (bits m 4 1) 8 4 y4)
include h1 h2 h3 h4

/-- The four pieces of the word the B immediate is made of hold the offset. -/
theorem immB_of_scattered (hm : m < 2 ^ 13) (heven : m % 2 = 0) :
    bits y4 31 31 * 2 ^ 12 + bits y4 7 7 * 2 ^ 11 + bits y4 30 25 * 2 ^ 5 + bits y4 11 8 * 2 = m := by
  have hp31 : bits y4 31 31 = bits m 12 12 % 2 ^ 1 := by
    rw [h4.bits_of_disjoint (by decide) (by decide) (by decide), h3.bits_of_disjoint (by decide) (by decide) (by decide),
      h2.bits_of_disjoint (by decide) (by decide) (by decide)]
    exact h1.field ((bfOk_iff _ _ _).1 rfl)
  have hp7 : bits y4 7 7 = bits m 11 11 % 2 ^ 1 := by
    rw [h4.bits_of_disjoint (by decide) (by decide) (by decide), h3.bits_of_disjoint (by decide) (by decide) (by decide)]
    exact h2.field ((bfOk_iff _ _ _).1 rfl)
  have hp25 : bits y4 30 25 = bits m 10 5 % 2 ^ 6 := by
    rw [h4.bits_of_disjoint (by decide) (by decide) (by decide)]
    exact h3.field ((bfOk_iff _ _ _).1 rfl)
  have hp8 : bits y4 11 8 = bits m 4 1 % 2 ^ 4 := h4.field ((bfOk_iff _ _ _).1 rfl)
  rw [hp31, hp7, hp25, hp8]
  simp only [bits]
  omega

/-- Bits below bit 7, and between the low and the high pieces, stay those of the word. -/
theorem bits_of_scattered {hi lo : Nat} (hlo : lo ≤ hi) (hout : hi < 7 ∨ 11 < lo ∧ hi < 25) :
    bits y4 hi lo = bits word hi lo := by
  have hhi : hi < 32 := by omega
  rw [h4.bits_of_disjoint hlo hhi (show hi < 8 ∨ 12 ≤ lo by omega),
    h3.bits_of_disjoint hlo hhi (show hi < 25 ∨ 31 ≤ lo by omega),
    h2.bits_of_disjoint hlo hhi (show hi < 7 ∨ 8 ≤ lo by omega),
    h1.bits_of_disjoint hlo hhi (show hi < 31 ∨ 32 ≤ lo by omega)]

end

/-- Settles O40: no piece overwrites another, so each reads back, and the fields between them are the word's. -/
theorem branchOffsetScatter : Obligations.BranchOffsetScatter := by
  intro s m hm heven put
  have fits {y : Nat} (h : y < 2 ^ 32) : y < 2 ^ s.params.width :=
    Nat.lt_of_lt_of_le h (Nat.pow_le_pow_right (by decide) (width_ge _))
  obtain ⟨y1, hput1, h1⟩ := exists_reply_set32_driven s (off := 31) (wid := 1) s.a.isLt rfl (bits_lt m 12 12)
  obtain ⟨y2, hput2, h2⟩ := exists_reply_set32_driven s (off := 7) (wid := 1) (fits h1.1) rfl (bits_lt m 11 11)
  obtain ⟨y3, hput3, h3⟩ := exists_reply_set32_driven s (off := 25) (wid := 6) (fits h2.1) rfl (bits_lt m 10 5)
  obtain ⟨y4, hput4, h4⟩ := exists_reply_set32_driven s (off := 8) (wid := 4) (fits h3.1) rfl (bits_lt m 4 1)
  refine ⟨y1, y2, y3, y4, hput1, hput2, hput3, hput4, ?_⟩
  intro t
  have ha : t.a.toNat = y4 := toNat_ofNat_port s.params h4.1 (width_ge _)
  have himm : (immB t.word).toNat = m := by
    have hword : t.word.toNat = y4 := by
      rw [State.word, BitVec.toNat_setWidth, ha, Nat.mod_eq_of_lt h4.1]
    rw [toNat_immB, hword]
    exact immB_of_scattered h1 h2 h3 h4 hm heven
  refine ⟨?_, ?_, ?_⟩
  · rw [← himm]
    exact reply_of_drive_zext rfl (by decide)
  · have hsext : sext s.params.width (immB t.word) = BitVec.ofInt _ (signedOf 13 m) := by
      rw [sext_eq_ofInt, toInt_eq_signedOf _ (by decide), himm]
    rw [← hsext]
    exact reply_of_drive rfl
  · have kept {i : Instr} {off wid : Pos} (hi : fieldPosition i = some (off, wid))
        (hout : off.toNat + wid.toNat - 1 < 7 ∨ 11 < off.toNat ∧ off.toNat + wid.toNat - 1 < 25) :
        reply i t = reply i s := by
      have hpos := (inRange_of_fieldPosition hi).1
      rw [reply_of_fieldPosition hi, reply_of_fieldPosition hi, ha, bits_of_scattered h1 h2 h3 h4 (by omega) hout]
    intro i hi
    simp only [List.mem_cons, List.not_mem_nil, or_false] at hi
    rcases hi with rfl | rfl | rfl | rfl
    all_goals exact kept rfl (by decide)

end Sys2Proof.Machine
end

section
/-!
PROOFS of the sign extension (spec/41_sign_extension.md): SEXT bit by bit with its width check (R70, R71), and its five
laws (R72).
-/

namespace Sys2Proof.Machine

/-- Settles O23: a legal width drives the extended field, whose bits are known, and any other width raises RANGE. -/
theorem sextRule : Obligations.SextRule := by
  refine ⟨decode_encode .sext, fun s => ⟨fun hl => ?_, fun hl => ?_⟩⟩
  · rw [execSext_of_legal hl]
    exact ⟨_, drive_answers s _, getLsbD_sext_fieldOf s.a s.wid hl⟩
  · rw [execSext_of_not_legal hl]
    exact raise_refuses s .range

/-! ### A number sign-extended -/

/-- `y` is the low `n` bits of `a` with bit `n - 1` repeated above them, in `W` bits. -/
def IsSignExtended (W n a y : Nat) : Prop :=
  y < 2 ^ W ∧ ∀ k < W, y.testBit k = if k < n then a.testBit k else a.testBit (n - 1)

section
variable {W n m a y : Nat}

/-- Every bit from `n - 1` up is the sign bit. -/
theorem IsSignExtended.testBit_of_le (h : IsSignExtended W n a y) {k : Nat} (hk : n - 1 ≤ k) (hkW : k < W) :
    y.testBit k = a.testBit (n - 1) := by
  rw [h.2 k hkW]
  split
  · rw [show k = n - 1 by omega]
  · rfl

theorem IsSignExtended.mod_two_pow (h : IsSignExtended W n a y) (hn : n ≤ W) : y % 2 ^ n = a % 2 ^ n := by
  apply Nat.eq_of_testBit_eq
  intro k
  rw [Nat.testBit_mod_two_pow, Nat.testBit_mod_two_pow]
  by_cases hk : k < n
  · rw [h.2 k (by omega), if_pos hk]
  · rw [decide_eq_false hk, Bool.false_and, Bool.false_and]

/-- From a wider position on, the bits already repeat: a second, wider extension changes nothing. -/
theorem IsSignExtended.widen (h : IsSignExtended W n a y) (hpos : 1 ≤ n) (hnm : n ≤ m) (hm : m ≤ W) :
    IsSignExtended W m y y := by
  refine ⟨h.1, fun k hk => ?_⟩
  split
  · rfl
  · rw [h.testBit_of_le (by omega) hk, h.testBit_of_le (by omega) (by omega)]

/-- Sign and zero extension agree exactly when the sign bit is 0 or there is no bit above it. -/
theorem IsSignExtended.eq_mod_two_pow_iff (h : IsSignExtended W n a y) (hpos : 1 ≤ n) (hn : n ≤ W) :
    y = a % 2 ^ n ↔ a.testBit (n - 1) = false ∨ n = W := by
  rw [← h.mod_two_pow hn, eq_comm, Nat.mod_eq_iff_lt (Nat.ne_of_gt (Nat.two_pow_pos n))]
  constructor
  · intro hlt
    by_cases hW : n = W
    · exact .inr hW
    · refine .inl ?_
      rw [← h.testBit_of_le (k := n) (by omega) (by omega)]
      exact Nat.testBit_lt_two_pow hlt
  · rintro (hsign | rfl)
    · refine Nat.lt_pow_two_of_testBit y fun k hk => ?_
      by_cases hkW : k < W
      · rw [h.testBit_of_le (by omega) hkW, hsign]
      · exact Nat.testBit_lt_two_pow (Nat.lt_of_lt_of_le h.1 (Nat.pow_le_pow_right (by decide) (by omega)))
    · exact h.1

end

/-! ### The five laws -/

section
variable {s : State} {y : Nat}

theorem reply_sext_iff_isSignExtended :
    reply .sext s = some y ↔
      SourceWidthLegal s.params.width s.wid ∧ IsSignExtended s.params.width s.wid.toNat s.a.toNat y :=
  reply_sext_iff s y

/-- The first law of R72. -/
theorem signedOf_of_reply_sext (hy : reply .sext s = some y) :
    signedOf s.params.width y = signedOf s.wid.toNat (s.a.toNat % 2 ^ s.wid.toNat) := by
  obtain ⟨hl, -⟩ := reply_sext_iff_isSignExtended.1 hy
  obtain rfl : (sext s.params.width (fieldOf s.a 0 s.wid)).toNat = y :=
    Option.some.inj ((reply_of_drive (execSext_of_legal hl)).symm.trans hy)
  have hfield : (fieldOf s.a 0 s.wid).toNat = s.a.toNat % 2 ^ s.wid.toNat :=
    (toNat_fieldOf s.a 0 s.wid).trans (congrArg (· % 2 ^ s.wid.toNat) (Nat.div_one _))
  obtain ⟨hpos, hle⟩ := hl
  rw [← toInt_eq_signedOf _ (by omega), ← hfield, ← toInt_eq_signedOf _ hpos]
  exact BitVec.toInt_signExtend_of_le hle

/-- The third and fourth laws of R72: a second SEXT, of the same or a greater width, replies with what it was given. -/
theorem reply_sext_of_reply_sext (hy : reply .sext s = some y) {m : Pos} (hnm : s.wid.toNat ≤ m.toNat)
    (hm : m.toNat ≤ s.params.width) : reply .sext { s with a := BitVec.ofNat _ y, wid := m } = some y := by
  obtain ⟨⟨hpos, -⟩, hext⟩ := reply_sext_iff_isSignExtended.1 hy
  refine reply_sext_iff_isSignExtended.2 ⟨⟨Nat.le_trans hpos hnm, hm⟩, ?_⟩
  rw [toNat_ofNat_port s.params hext.1 (Nat.le_refl _)]
  exact hext.widen hpos hnm hm

/-- EXTRACT at offset 0 is the zero extension (R54). -/
theorem reply_extract_zero (hl : SourceWidthLegal s.params.width s.wid) :
    reply .extract { s with off := 0 } = some (s.a.toNat % 2 ^ s.wid.toNat) := by
  obtain ⟨hpos, hle⟩ := hl
  have hr : InRange s.params.width 0 s.wid := ⟨hpos, Nat.le_trans (Nat.le_of_eq (Nat.zero_add _)) hle⟩
  rw [reply_extract_of_inRange (s := { s with off := 0 }) (matchingPair_xlen _) hr, bits_of_width hpos]
  exact congrArg (fun v => some (v % 2 ^ s.wid.toNat)) (Nat.div_one _)

/-- The fifth law of R72. -/
theorem reply_extract_zero_eq_iff (hy : reply .sext s = some y) :
    reply .extract { s with off := 0 } = some y ↔
      s.a.getLsbD (s.wid.toNat - 1) = false ∨ s.wid.toNat = s.params.width := by
  obtain ⟨hl, hext⟩ := reply_sext_iff_isSignExtended.1 hy
  rw [reply_extract_zero hl, Option.some_inj, eq_comm]
  exact hext.eq_mod_two_pow_iff hl.1 hl.2

end

/-- Settles O24: a SEXT's reply is its low bits sign-extended, and idempotence is the wider SEXT at the same width. -/
theorem sextLaws : Obligations.SextLaws := by
  intro s y hy
  obtain ⟨⟨-, hle⟩, hext⟩ := reply_sext_iff_isSignExtended.1 hy
  exact ⟨signedOf_of_reply_sext hy, hext.mod_two_pow hle, reply_sext_of_reply_sext hy (Nat.le_refl _) hle,
    fun m => reply_sext_of_reply_sext hy, reply_extract_zero_eq_iff hy⟩

end Sys2Proof.Machine
end

section
/-!
PROOFS of the R view (spec/42_format_R.md R81 to R86): each accessor drives its field, and the function key gives funct3
and funct7 back.
-/

namespace Sys2Proof.Machine

/-- An operation that drives a zero-extended value answers the number that value is. -/
theorem answers_ofNat_of_drive_zext {i : Instr} {s : State} {n x : Nat} {v : BitVec n}
    (h : exec i s = drive s (zext _ v)) (hv : v.toNat = x) : Answers (exec i s) s (BitVec.ofNat _ x) := by
  rw [h, zext_eq_ofNat, hv]
  exact drive_answers s _

/-- R86: the function key as the number the rule writes. -/
theorem toNat_functionKey_eq_or_bits (w : Word) :
    (functionKey w).toNat = bits w.toNat 14 12 ||| bits w.toNat 31 25 <<< 3 := by
  rw [← toNat_funct3Field, ← toNat_funct7Field]
  exact toNat_functionKey_eq_or w

/-- R86: the function key determines the pair, as bit ranges of the word. -/
theorem bits_of_functionKey (w : Word) :
    (functionKey w).toNat % 8 = bits w.toNat 14 12 ∧ (functionKey w).toNat / 8 = bits w.toNat 31 25 := by
  obtain ⟨-, hlow, hhigh⟩ := functionKey_split w
  exact ⟨hlow.trans (toNat_funct3Field w), hhigh.trans (toNat_funct7Field w)⟩

/-- Settles O27: each accessor drives a field whose number is a bit range, and the key's number is the OR of two. -/
theorem rViewFields : Obligations.RViewFields := by
  refine ⟨⟨decode_encode .rRd, decode_encode .rFunct3, decode_encode .rRs1, decode_encode .rRs2,
    decode_encode .rFunct7, decode_encode .rFunction⟩, ?_⟩
  intro s
  dsimp only
  rw [← toNat_word, ← toNat_functionKey_eq_or_bits]
  exact ⟨answers_ofNat_of_drive_zext rfl (toNat_rdField _), answers_ofNat_of_drive_zext rfl (toNat_funct3Field _),
    answers_ofNat_of_drive_zext rfl (toNat_rs1Field _), answers_ofNat_of_drive_zext rfl (toNat_rs2Field _),
    answers_ofNat_of_drive_zext rfl (toNat_funct7Field _), answers_ofNat_of_drive_zext rfl rfl,
    bits_of_functionKey s.word⟩

end Sys2Proof.Machine
end

section
/-!
PROOFS of the I view (spec/43_format_I.md R91 to R104): its fields, the immediate, both splits of a shift immediate with
their classes, and the identities among the accessors.
-/

namespace Sys2Proof.Machine

/-! ### Fields and immediates -/

/-- Two accessors of the same piece of the word reply the same, whatever their views are (R104). -/
theorem reply_eq_of_fieldPosition {i j : Instr} {p : Pos × Pos} (hi : fieldPosition i = some p)
    (hj : fieldPosition j = some p) (s : State) : reply i s = reply j s :=
  (reply_eq_extract32 hi s).trans (reply_eq_extract32 hj s).symm

/-- Settles O28: each accessor drives a field whose number is a bit range; I.CSR reads the piece I.IMM reads, and I.ZIMM
the piece I.RS1 reads. -/
theorem iViewFields : Obligations.IViewFields := by
  refine ⟨⟨decode_encode .iRd, decode_encode .iFunct3, decode_encode .iRs1, decode_encode .iCsr,
    decode_encode .iZimm⟩, ?_⟩
  intro s
  dsimp only
  rw [← toNat_word]
  exact ⟨answers_ofNat_of_drive_zext rfl (toNat_rdField _), answers_ofNat_of_drive_zext rfl (toNat_funct3Field _),
    answers_ofNat_of_drive_zext rfl (toNat_rs1Field _), answers_ofNat_of_drive_zext rfl (toNat_immI _),
    answers_ofNat_of_drive_zext rfl (toNat_rs1Field _), reply_eq_of_fieldPosition rfl rfl s,
    reply_eq_of_fieldPosition rfl rfl s⟩

/-- An operation that drives a sign-extended value answers the two's-complement reading of the number that value is. -/
theorem answers_ofInt_of_drive_sext {i : Instr} {s : State} {n x : Nat} {v : BitVec n} (hn : 0 < n)
    (h : exec i s = drive s (sext _ v)) (hv : v.toNat = x) : Answers (exec i s) s (BitVec.ofInt _ (signedOf n x)) := by
  rw [h, sext_eq_ofInt, toInt_eq_signedOf v hn, hv]
  exact drive_answers s _

/-- The range of a two's-complement reading. -/
theorem signedOf_toNat_bounds {n : Nat} (v : BitVec n) (hn : 0 < n) :
    -2 ^ (n - 1) ≤ signedOf n v.toNat ∧ signedOf n v.toNat < 2 ^ (n - 1) := by
  rw [← toInt_eq_signedOf v hn]
  exact ⟨BitVec.le_toInt v, BitVec.toInt_lt⟩

/-- Settles O29: the two accessors drive one 12-bit field, zero-extended and sign-extended. -/
theorem iViewImmediate : Obligations.IViewImmediate := by
  refine ⟨⟨decode_encode .iImm, decode_encode .iImmExt⟩, ?_⟩
  intro s
  dsimp only
  rw [← toNat_word, ← toNat_immI]
  obtain ⟨hlow, hhigh⟩ := signedOf_toNat_bounds (immI s.word) (by decide)
  exact ⟨answers_ofNat_of_drive_zext rfl rfl, answers_ofInt_of_drive_sext (by decide) rfl rfl, hlow,
    Int.le_of_lt_add_one hhigh⟩

/-! ### Shift immediates -/

/-- Settles O30: each accessor drives a field whose number is a bit range. -/
theorem shiftSplits : Obligations.ShiftSplits := by
  refine ⟨⟨decode_encode .iShamt5, decode_encode .iShamt6, decode_encode .iShup5, decode_encode .iShup6⟩, ?_⟩
  intro s
  dsimp only
  rw [← toNat_word]
  exact ⟨answers_ofNat_of_drive_zext rfl (toNat_shamt5Field _), answers_ofNat_of_drive_zext rfl (toNat_shamt6Field _),
    answers_ofNat_of_drive_zext rfl (toNat_shup5Field _), answers_ofNat_of_drive_zext rfl (toNat_shup6Field _)⟩

/-- The class of upper bits as a number, decided by comparing numbers (R100, R101). -/
theorem shiftKindCode_shiftKind {n : Nat} (strict : Bool) (up tagPattern : BitVec n) (tag : Bool) :
    shiftKindCode (shiftKind strict up tagPattern tag) =
      if up.toNat = 0 then 0
      else if strict = true then (if up.toNat = tagPattern.toNat then 1 else 2)
      else (if tag = true then 1 else 2) := by
  simp only [shiftKind, ← BitVec.toNat_inj, BitVec.toNat_ofNat, Nat.zero_mod, apply_ite shiftKindCode]
  rfl

/-- Settles O31: the accessors drive the class of the upper bits, whose conditions are comparisons of bit ranges. -/
theorem shiftKinds : Obligations.ShiftKinds := by
  refine ⟨⟨decode_encode .iShkind5, decode_encode .iShkind6⟩, ?_⟩
  intro s
  dsimp only
  rw [← toNat_word, ← toNat_shup5Field, ← toNat_shup6Field]
  simp only [← shiftTag_iff]
  constructor
  · exact shiftKindCode_shiftKind _ (shup5Field s.word) 0b0100000#7 _ ▸ view_answers (by decide) s
  · exact shiftKindCode_shiftKind _ (shup6Field s.word) 0b010000#6 _ ▸ view_answers (by decide) s

/-! ### The identities -/

/-- A bit range masked to its low bits is the bit range with a lower upper end. -/
theorem bits_and_mask (v : Nat) {hi mid lo : Nat} (hmid : mid ≤ hi) :
    bits v hi lo &&& (2 ^ (mid - lo + 1) - 1) = bits v mid lo := by
  rw [Nat.and_two_pow_sub_one_eq_mod]
  exact Nat.mod_mod_of_dvd _ (Nat.pow_dvd_pow 2 (by omega))

/-- A bit range shifted down is the bit range with a higher lower end. -/
theorem bits_shiftRight (v : Nat) {hi lo k : Nat} (hk : lo + k ≤ hi) : bits v hi lo >>> k = bits v hi (lo + k) := by
  rw [bits, bits, Nat.shiftRight_eq_div_pow, show hi - lo + 1 = k + (hi - (lo + k) + 1) by omega, Nat.pow_add,
    Nat.mod_mul_right_div_self, Nat.div_div_eq_div_mul, ← Nat.pow_add]

/-- Settles O32: every accessor named replies with a bit range of `a`, and the shift accessors' ranges are the low and
the high parts of the immediate's. -/
theorem iViewIdentities : Obligations.IViewIdentities := by
  intro s
  refine ⟨bits s.a.toNat 31 20, reply_of_fieldPosition (off := 20) (wid := 12) rfl s,
    reply_eq_of_fieldPosition rfl rfl s, reply_eq_of_fieldPosition rfl rfl s, ?_, ?_, ?_,
    reply_eq_of_fieldPosition rfl rfl s, ?_, reply_eq_of_fieldPosition rfl rfl s, reply_eq_of_fieldPosition rfl rfl s,
    reply_eq_of_fieldPosition rfl rfl s⟩
  · have hlow : bits s.a.toNat 31 20 &&& 0x1F = bits s.a.toNat 24 20 :=
      bits_and_mask s.a.toNat (show 24 ≤ 31 by decide)
    rw [hlow]
    exact reply_of_fieldPosition (off := 20) (wid := 5) rfl s
  · have hlow : bits s.a.toNat 31 20 &&& 0x3F = bits s.a.toNat 25 20 :=
      bits_and_mask s.a.toNat (show 25 ≤ 31 by decide)
    rw [hlow]
    exact reply_of_fieldPosition (off := 20) (wid := 6) rfl s
  · rw [bits_shiftRight _ (by decide)]
    exact reply_of_fieldPosition (off := 25) (wid := 7) rfl s
  · rw [bits_shiftRight _ (by decide)]
    exact reply_of_fieldPosition (off := 26) (wid := 6) rfl s

end Sys2Proof.Machine
end

section
/-!
PROOFS of the S view (spec/44_format_S.md R111 to R115): its fields, and the store immediate reassembled from the two
pieces around them.
-/

namespace Sys2Proof.Machine

/-- Settles O33: each accessor drives a field whose number is a bit range, or the 12-bit immediate, zero-extended and
sign-extended. -/
theorem sView : Obligations.SView := by
  refine ⟨⟨decode_encode .sFunct3, decode_encode .sRs1, decode_encode .sRs2, decode_encode .sImm,
    decode_encode .sImmExt⟩, ?_⟩
  intro s
  dsimp only
  rw [← toNat_word, ← toNat_immS]
  obtain ⟨hlow, hhigh⟩ := signedOf_toNat_bounds (immS s.word) (by decide)
  exact ⟨answers_ofNat_of_drive_zext rfl (toNat_funct3Field _), answers_ofNat_of_drive_zext rfl (toNat_rs1Field _),
    answers_ofNat_of_drive_zext rfl (toNat_rs2Field _), answers_ofNat_of_drive_zext rfl rfl,
    answers_ofInt_of_drive_sext (by decide) rfl rfl, hlow, Int.le_of_lt_add_one hhigh⟩

end Sys2Proof.Machine
end

section
/-!
PROOFS of the B view (spec/45_format_B.md R121 to R125): its fields, and the branch offset reassembled from four pieces
over a zero bit, which makes it even.
-/

namespace Sys2Proof.Machine

/-- An even number has an even two's-complement reading. -/
theorem signedOf_emod_two {n x : Nat} (hn : 0 < n) (hx : x % 2 = 0) : signedOf n x % 2 = 0 := by
  obtain ⟨m, rfl⟩ := Nat.exists_eq_add_one.2 hn
  have hpow : (2 : Int) ^ (m + 1) = 2 ^ m * 2 := Int.pow_succ 2 m
  unfold signedOf
  split <;> omega

/-- R45: bit 0 of the branch offset is 0. -/
theorem toNat_immB_mod_two (w : Word) : (immB w).toNat % 2 = 0 := by
  rw [toNat_immB]
  omega

/-- The ranges of an even number of `n` bits and of its two's-complement reading, whose largest values are even too. -/
theorem bounds_of_toNat_even {n : Nat} (v : BitVec n) (hn : 1 < n) (hv : v.toNat % 2 = 0) :
    v.toNat ≤ 2 ^ n - 2 ∧ -2 ^ (n - 1) ≤ signedOf n v.toNat ∧ signedOf n v.toNat ≤ 2 ^ (n - 1) - 2 ∧
      signedOf n v.toNat % 2 = 0 := by
  obtain ⟨m, rfl⟩ : ∃ m, n = m + 2 := ⟨n - 2, by omega⟩
  have hpow : 2 ^ (m + 2) = 2 ^ (m + 1) * 2 := Nat.pow_succ 2 (m + 1)
  have hhalf : (2 : Int) ^ (m + 2 - 1) = 2 ^ m * 2 := Int.pow_succ 2 m
  have hlt := v.isLt
  have heven := signedOf_emod_two (Nat.zero_lt_of_lt hn) hv
  obtain ⟨hlow, hhigh⟩ := signedOf_toNat_bounds v (Nat.zero_lt_of_lt hn)
  omega

/-- Settles O34: each accessor drives a field whose number is a bit range, or the 13-bit branch offset, zero-extended and
sign-extended. -/
theorem bView : Obligations.BView := by
  refine ⟨⟨decode_encode .bFunct3, decode_encode .bRs1, decode_encode .bRs2, decode_encode .bImm,
    decode_encode .bImmExt⟩, ?_⟩
  intro s
  dsimp only
  rw [← toNat_word, ← toNat_immB]
  exact ⟨answers_ofNat_of_drive_zext rfl (toNat_funct3Field _), answers_ofNat_of_drive_zext rfl (toNat_rs1Field _),
    answers_ofNat_of_drive_zext rfl (toNat_rs2Field _), answers_ofNat_of_drive_zext rfl rfl,
    answers_ofInt_of_drive_sext (by decide) rfl rfl, bounds_of_toNat_even _ (by decide) (toNat_immB_mod_two _)⟩

end Sys2Proof.Machine
end

section
/-!
PROOFS of the U view (spec/46_format_U.md R131 to R133): rd, and the upper immediate, which is already 32 bits wide, so
that extending its sign to 32 bits changes nothing.
-/

namespace Sys2Proof.Machine

/-- Sign and zero extension to a value's own width are both the identity. -/
theorem sext_eq_zext_of_width_eq {W n : Nat} (v : BitVec n) (h : W = n) : sext W v = zext W v := by
  subst h
  exact (BitVec.signExtend_eq v).trans (BitVec.setWidth_eq v).symm

/-- R133: a 32-bit build's ports are as wide as the immediate. -/
theorem exec_uImmExt_of_x32 {s : State} (h : s.params.xlen = .x32) : exec .uImmExt s = exec .uImm s :=
  congrArg (drive s) (sext_eq_zext_of_width_eq (immU s.word) (width_of_x32 h))

/-- Settles O35: the accessors drive rd and the 32-bit immediate, zero-extended and sign-extended; at `XLEN = 32` the two
extensions agree. -/
theorem uView : Obligations.UView := by
  refine ⟨⟨decode_encode .uRd, decode_encode .uImm, decode_encode .uImmExt⟩, ?_⟩
  intro s
  dsimp only
  rw [← toNat_word, ← toNat_immU]
  exact ⟨answers_ofNat_of_drive_zext rfl (toNat_rdField _), answers_ofNat_of_drive_zext rfl rfl,
    answers_ofInt_of_drive_sext (by decide) rfl rfl,
    fun h => by rw [reply, exec_uImmExt_of_x32 h, reply]⟩

end Sys2Proof.Machine
end

section
/-!
PROOFS of the J view (spec/47_format_J.md R141 to R143): rd, and the jump offset reassembled from four pieces over a zero
bit, which makes it even.
-/

namespace Sys2Proof.Machine

/-- R47: bit 0 of the jump offset is 0. -/
theorem toNat_immJ_mod_two (w : Word) : (immJ w).toNat % 2 = 0 := by
  rw [toNat_immJ]
  omega

/-- Settles O36: the accessors drive rd and the 21-bit jump offset, zero-extended and sign-extended; the bounds are those
of an even number of 21 bits. -/
theorem jView : Obligations.JView := by
  refine ⟨⟨decode_encode .jRd, decode_encode .jImm, decode_encode .jImmExt⟩, ?_⟩
  intro s
  dsimp only
  rw [← toNat_word, ← toNat_immJ]
  exact ⟨answers_ofNat_of_drive_zext rfl (toNat_rdField _), answers_ofNat_of_drive_zext rfl rfl,
    answers_ofInt_of_drive_sext (by decide) rfl rfl, bounds_of_toNat_even _ (by decide) (toNat_immJ_mod_two _)⟩

end Sys2Proof.Machine
end

section
/-!
PROOFS of the exception rules (spec/60_exceptions.md): every request is answered, a fault leaves nothing behind, and a
consumer's run ends in its first fault.
-/

namespace Sys2Proof.Machine

/-! ### Every step answers, and a fault is precise -/

/-- Settles O5: what a step does is an answer, or a refusal with the code of a fault kind. -/
theorem stepAlwaysAnswers : Obligations.StepAlwaysAnswers := by
  intro s
  rcases step_answer_or_refuse s with ⟨v, hstep⟩ | ⟨k, hstep, -⟩
  · exact .inl ⟨v, hstep⟩
  · refine .inr ⟨faultCode k, faultCode_ne_zero k, ?_⟩
    rw [hstep]
    exact raise_refuses s k

/-- A step whose response is a fault has done nothing but refuse the request. -/
theorem eq_refuse_of_step_fault {s t : State} (hstep : step s = .next t) (hfault : t.fault = true) :
    ∃ k, t = s.refuse k := by
  rcases step_answer_or_refuse s with ⟨v, hanswer⟩ | ⟨k, hrefuse, -⟩
  · obtain rfl : t = s.answer v := Host.Outcome.next.inj (hstep.symm.trans hanswer)
    simp at hfault
  · exact ⟨k, Host.Outcome.next.inj (hstep.symm.trans hrefuse)⟩

/-- Settles O12: a refusal keeps the build and the input ports, and the next response depends on nothing else that was
there before it. -/
theorem faultIsPrecise : Obligations.FaultIsPrecise := by
  intro s t hstep hfault
  obtain ⟨k, rfl⟩ := eq_refuse_of_step_fault hstep hfault
  constructor
  · rw [hstep]
    exact raise_refuses s k
  · exact respond_congr (s.refuse_params k)

/-! ### A consumer's run -/

theorem consumerRun_cons {s t : State} {r : Request} (hstep : step (s.drive r) = .next t) (rs : List Request) :
    consumerRun s (r :: rs) = if t.fault then .fault (.reachedConsumer t.fcode) else consumerRun t rs := by
  rw [consumerRun, hstep]

theorem respondAll_cons_of_step {s t : State} {r : Request} (hstep : step (s.drive r) = .next t) (rs : List Request) :
    respondAll s (r :: rs) = t.observe :: respondAll t rs := by
  rw [respondAll, hstep]

/-- The first response of a run that is a fault (R155). -/
def firstFault (s : State) (rs : List Request) : Option Response := (respondAll s rs).find? (·.fault)

theorem firstFault_cons {s t : State} {r : Request} (hstep : step (s.drive r) = .next t) (rs : List Request) :
    firstFault s (r :: rs) = if t.fault then some t.observe else firstFault t rs := by
  rw [firstFault, respondAll_cons_of_step hstep, List.find?_cons]
  cases h : t.fault <;> simp [State.observe, h, firstFault]

theorem firstFault_eq_none_iff (s : State) (rs : List Request) :
    firstFault s rs = none ↔ ∀ x ∈ respondAll s rs, x.fault = false := by
  simp [firstFault]

/-- Everything a consumer's run can do: it is final when no response faults, and else it ends in its first fault. -/
theorem consumerRun_cases (s : State) (rs : List Request) :
    (∃ t, consumerRun s rs = .next t ∧ firstFault s rs = none) ∨
      ∃ k, consumerRun s rs = .fault (.reachedConsumer k) ∧ (firstFault s rs).map (·.fcode) = some k.toNat := by
  induction rs generalizing s with
  | nil => exact .inl ⟨s, rfl, rfl⟩
  | cons r rs ih =>
    obtain ⟨t, hstep, -⟩ := step_next_params (s.drive r)
    rw [consumerRun_cons hstep, firstFault_cons hstep]
    cases t.fault with
    | true => exact .inr ⟨t.fcode, rfl, rfl⟩
    | false => exact ih t

/-- Settles O14: the run's two endings exclude each other, and so do having no faulted response and having a first
one. -/
theorem faultedRunIsNeverFinal : Obligations.FaultedRunIsNeverFinal := by
  intro s rs
  rw [← firstFault_eq_none_iff, ← firstFault]
  rcases consumerRun_cases s rs with ⟨t, hrun, hnone⟩ | ⟨k, hrun, hsome⟩
  · simp [hrun, hnone]
  · have hfault : firstFault s rs ≠ none := fun hnone => by simp [hnone] at hsome
    simp [hrun, hfault, hsome, BitVec.toNat_inj]

end Sys2Proof.Machine
end

section
/-!
PROOFS of the reset rules (spec/70_reset_and_hazards.md): nothing has to be set up before the first request, and the
build parameters hold for the life of the instance.
-/

namespace Sys2Proof.Machine

theorem State.powerUp_params (p : BuildParams) : (State.powerUp p).params = p := rfl

/-- Settles O9: an instance at power-up is an instance of the build, and every step has a response. -/
theorem powerUpAnswersAsAnyInstance : Obligations.PowerUpAnswersAsAnyInstance :=
  fun s r _ => ⟨respond_congr (State.powerUp_params s.params) r, observeResult_step_isSome (s.drive r)⟩

theorem run_succ_of_step {s t : State} (hstep : step s = .next t) (k : Nat) :
    Host.Core.run Sys2Proof.core (k + 1) s = Host.Core.run Sys2Proof.core k t := by
  have hcore : Sys2Proof.core.step s = .next t := hstep
  simp only [Host.Core.run, hcore]

/-- What every step keeps holds after any number of steps. -/
theorem run_induction {P : State → Prop} (hkeep : ∀ {s t}, step s = .next t → P s → P t) {k : Nat} {s t : State}
    (hrun : Host.Core.run Sys2Proof.core k s = .next t) (hs : P s) : P t := by
  induction k generalizing s with
  | zero => exact Host.Outcome.next.inj hrun ▸ hs
  | succ k ih =>
    obtain ⟨s', hstep, -⟩ := step_next_params s
    rw [run_succ_of_step hstep] at hrun
    exact ih hrun (hkeep hstep hs)

theorem params_of_step {s t : State} (hstep : step s = .next t) : t.params = s.params := by
  obtain ⟨t', hstep', hp⟩ := step_next_params s
  obtain rfl : t = t' := Host.Outcome.next.inj (hstep.symm.trans hstep')
  exact hp

/-- Settles O8: a step keeps the build parameters, and so does any number of steps. -/
theorem buildParametersFixed : Obligations.BuildParametersFixed :=
  ⟨State.powerUp_params, State.drive_params,
    fun _ s _ hrun => run_induction (P := (·.params = s.params)) (fun hstep => (params_of_step hstep).trans) hrun rfl⟩

end Sys2Proof.Machine
end
